-- ==== Sys2Proof/Word.lean ====
section
/-!
DEFINITION. The word types of the block: the 32-bit word of every register and of the port, and the
5-bit word index of the port (spec/00_scope.md R4, R5; spec/20_memory.md R50).
-/

namespace Sys2Proof

/-- A register, a port word or a command word: 32 bits, bit 31 the most significant (R5). -/
abbrev Word := BitVec 32

/-- A word index of the port, 0 to 31 (`addr`, R50). -/
abbrev WordIndex := BitVec 5

end Sys2Proof
end

