-- ==== Sys2Proof/Config.lean ====
section
/-!
DEFINITION. What this implementation fixes (spec/00_scope.md R4: "None is left as a model argument:
all are fixed"). Most parameters of R4 stand in types: XLEN = 32 is `Word`, the host address width 5 is
`WordIndex`, MODW = 16 is the slice that `State.modulus` reads, 9, 3 and 9 registers are the lengths of
the vectors of `Machine.State`, NMAX = 3 is `Dim`. No behaviour of the block draws a value
(spec/93_implementation_defined.md section 2), so there is no free value here.
-/

namespace Sys2Proof

/-- MOD_RESET, the modulus after reset (R4, R37). -/
def Config.modReset : Word := 26

/-- The row stride of the matrix registers and of matrix results, 3 for every n (R22, R27). -/
abbrev Config.stride : Nat := 3

/-- The legal dimensions n of R4: 1, 2, 3. -/
inductive Dim
  | one
  | two
  | three
deriving DecidableEq, Repr

/-- The dimension as a number. -/
def Dim.n : Dim → Nat
  | .one => 1
  | .two => 2
  | .three => 3

/-- NMAX = 3 (R4). -/
theorem Dim.n_le (d : Dim) : d.n ≤ 3 := by cases d <;> decide

/-- No legal dimension is 0 (R4). -/
theorem Dim.n_pos (d : Dim) : 0 < d.n := by cases d <;> decide

end Sys2Proof
end

