-- ==== Sys2Proof/Syntax.lean ====
section
/-!
DEFINITION. The command set (spec/30_encoding.md R72; spec/45_no_control_or_system.md R143): five
commands, one constructor each. N is the 4-bit field of the command word, used as is (R71): a value
outside 1, 2, 3 is a legal encoding whose size check belongs to the command's meaning (R73). MODINV's N
is a don't-care field (R77) and no part of the instruction (R143).
-/

namespace Sys2Proof

/-- The five commands (R143: "DET n, MODINV, ADJ n, MATINV n, MATVEC n, with n a 4-bit field"). -/
inductive Instr
  /-- DET n, the modular determinant (spec/40_determinant.md R90). -/
  | det (n : BitVec 4)
  /-- MODINV, the modular inverse of a scalar (spec/41_modular_inverse_scalar.md R100). -/
  | modinv
  /-- ADJ n, the modular adjugate (spec/42_adjugate.md R110). -/
  | adj (n : BitVec 4)
  /-- MATINV n, the modular matrix inverse (spec/43_matrix_inverse.md R120). -/
  | matinv (n : BitVec 4)
  /-- MATVEC n, the modular matrix-vector product (spec/44_matrix_vector_product.md R130). -/
  | matvec (n : BitVec 4)
deriving DecidableEq, Repr

end Sys2Proof
end

