-- ==== Sys2Proof/Decode.lean ====
section
/-!
DEFINITION. The decoder of command words, total on all 2^32 words and rejecting by name, and the encoder
(spec/30_encoding.md R70 to R77). The decoder proper is steps 1 to 3 of R74; steps 4 to 6 (modulus and
size) are the meanings' first lines.
-/

namespace Sys2Proof

/-- Why a word is no command (R75). -/
inductive DecodeError
  /-- w[31:8] is not zero (R74 step 1). -/
  | zeroField
  /-- OP is 0 or 6..15 (R74 step 3). -/
  | reservedOp
deriving DecidableEq, Repr

/-- ZERO, bits 31:8 (R70). -/
def fieldZero (w : Word) : BitVec 24 := w.extractLsb' 8 24

/-- N, bits 7:4 (R70, R71). -/
def fieldN (w : Word) : BitVec 4 := w.extractLsb' 4 4

/-- OP, bits 3:0 (R70). -/
def fieldOp (w : Word) : BitVec 4 := w.extractLsb' 0 4

/-- The command of OP and N (R72), or nothing for the reserved OP values 0 and 6..15 (R75, R76). -/
def commandOf (op n : BitVec 4) : Option Instr :=
  match op.toNat with
  | 1 => some (.det n)
  | 2 => some .modinv
  | 3 => some (.adj n)
  | 4 => some (.matinv n)
  | 5 => some (.matvec n)
  | _ => none

/-- R74 steps 1 to 3: the bits above 7 are checked first, then OP. -/
def decode (w : Word) : Except DecodeError Instr :=
  if fieldZero w ≠ 0 then .error .zeroField
  else
    match commandOf (fieldOp w) (fieldN w) with
    | some i => .ok i
    | none => .error .reservedOp

/-- The opcode number of a command (R72). -/
def opOf : Instr → BitVec 4
  | .det _ => 1
  | .modinv => 2
  | .adj _ => 3
  | .matinv _ => 4
  | .matvec _ => 5

/-- The N field the assembler emits: the operand, and 0 for MODINV (R77, R79). -/
def nOf : Instr → BitVec 4
  | .det n => n
  | .modinv => 0
  | .adj n => n
  | .matinv n => n
  | .matvec n => n

/-- The word of a command: `w = (N << 4) | OP` (R70). -/
def encode (i : Instr) : Word := (nOf i).setWidth 32 <<< 4 ||| (opOf i).setWidth 32

/-- One row of the opcode map: a word selects the row's command when `(w & mask) == match` (R72). -/
structure OpcodeRow where
  mnemonic : String
  mask : Word
  pattern : Word
deriving DecidableEq, Repr

/-- The opcode map (R72; spec/opcode_table.json). -/
def opcodeMap : List OpcodeRow :=
  [⟨"DET", 0xFFFFFF0F, 0x00000001⟩,
   ⟨"MODINV", 0xFFFFFF0F, 0x00000002⟩,
   ⟨"ADJ", 0xFFFFFF0F, 0x00000003⟩,
   ⟨"MATINV", 0xFFFFFF0F, 0x00000004⟩,
   ⟨"MATVEC", 0xFFFFFF0F, 0x00000005⟩]

/-- The mnemonic of a command (R72). -/
def mnemonicOf : Instr → String
  | .det _ => "DET"
  | .modinv => "MODINV"
  | .adj _ => "ADJ"
  | .matinv _ => "MATINV"
  | .matvec _ => "MATVEC"

/-- What the decoder reads from an instruction given as the opcode table numbers its bits: one 32-bit
word, bit 0 the least significant, and every bit at or above `nbits` 0. There is no byte order inside
the block (R57), so the word reaches the decoder as it is. -/
def decodeTableWord (nbits w : Nat) : Option Instr :=
  match decode (BitVec.ofNat 32 (w % 2 ^ nbits)) with
  | .ok i => some i
  | .error _ => none

end Sys2Proof
end

