-- ==== Sys2Proof/Machine/State.lean ====
section
/-!
DEFINITION. The state of the machine as plain data: the registers of spec/10_state.md R20, and the
model's own fields for the host that drives the port (spec/00_scope.md R10, R13; spec/20_memory.md R50,
R51). Beside it the types of what the host does at the port and of how a command or a step ends.
-/

namespace Sys2Proof.Machine

/-- The error kinds a command can end with (spec/60_exceptions.md R151). They are recorded outcomes of
commands, not faults of the machine (R157). -/
inductive CmdError
  /-- Code 1: N is not 1, 2 or 3 (R155). -/
  | unsupportedSize
  /-- Code 2: the reduced determinant is 0 (R156). -/
  | singularMatrix
  /-- Code 3: no inverse modulo m (R152). -/
  | noInverse
  /-- Code 4: MOD[15:0] = 0 (R154). -/
  | badModulus
  /-- Code 5: the word written to CMD encodes no command (R153). -/
  | illegalCommand
deriving DecidableEq, Repr

/-- One transaction of the port (R51): a read, or a write of one whole word. -/
inductive Transaction
  /-- `RegRead(idx)` (R52). -/
  | read (idx : WordIndex)
  /-- `RegWrite(idx, w)` (R53). -/
  | write (idx : WordIndex) (w : Word)
deriving DecidableEq, Repr

/-- What the host drives on the port's inputs, as sampled at one rising edge of `clk` (R50). -/
structure PortIn where
  rst : Bool
  req : Bool
  we : Bool
  addr : WordIndex
  wdata : Word
deriving DecidableEq, Repr

/-- What the port's outputs show at that edge (R50): `rdata` is valid only where a read is acknowledged;
nothing is said of it otherwise. -/
structure PortOut where
  ack : Bool
  rdata : Option Word
deriving DecidableEq, Repr

/-- What the host does in one clock cycle. DESIGN CHOICE (log entries 1, 2, 8). In each, `done` says
whether the block is done with the request by the edge that ends the cycle, so that `ack` can be 1: the
spec leaves the number of cycles open (R51, R192), and the model takes it from here. -/
inductive HostAction
  /-- The host drives these signals: a transaction, an idle cycle, a reset (R50, R67). -/
  | drive (p : PortIn) (done : Bool)
  /-- The host reads index `src` and then writes the value read to index `dst` (one element of
  `MOVRA`, R80). `done` is the read's; the write is acknowledged at its first edge (log entry 16). -/
  | copy (src dst : WordIndex) (done : Bool)
  /-- `CHK`: the host reads STATUS and stops unless it is 0x00000010 (R80, R140). -/
  | check (done : Bool)
deriving DecidableEq, Repr

/-- The state. The first six fields are the block's registers (R20); CMD holds no value (R31). The last
three are the model's own: the host's side of the port. -/
structure State where
  /-- STATUS, word index 1 (R29). -/
  status : Word
  /-- MOD, word index 2 (R32). -/
  mod : Word
  /-- SA, word index 3 (R24). -/
  sa : Word
  /-- A0..A8, word indices 4..12 (R22). -/
  a : Vector Word 9
  /-- V0..V2, word indices 13..15 (R23). -/
  v : Vector Word 3
  /-- R0..R8, word indices 16..24 (R26). -/
  r : Vector Word 9
  /-- What the host does in the coming cycles, the next one first. DESIGN CHOICE (log entry 1). -/
  script : List HostAction
  /-- The request the host has raised and holds until `ack` (R51). DESIGN CHOICE (log entry 2). -/
  held : Option Transaction
  /-- The values the host's reads returned, oldest first (R13, R79). DESIGN CHOICE (log entry 8). -/
  readLog : List Word
deriving DecidableEq, Repr

/-- The machine right after reset (R37, R180): MOD is 26, every other register 0. The model's own
fields are empty (log entries 1, 2, 8). -/
def State.reset : State where
  status := 0
  mod := Config.modReset
  sa := 0
  a := Vector.replicate 9 0
  v := Vector.replicate 3 0
  r := Vector.replicate 9 0
  script := []
  held := none
  readLog := []

/-- Faults of the machine: none. "There is no behaviour in this block whose treatment is `fault`,
`stuck` or `any value`" (spec/93_implementation_defined.md section 2). Errors of commands are next
states (`CmdError`). -/
inductive Fault
deriving DecidableEq, Repr

/-- Why a step has no meaning. -/
inductive Refusal
  /-- An instruction without a meaning yet, by its mnemonic: raised by no arm of `exec`; safe. -/
  | notModelled (mnemonic : String)
  /-- The host changed or dropped a request before `ack`: raised by `clockEdge`; safe. The spec gives no
  meaning to it (spec/20_memory.md R51; spec/93_implementation_defined.md V2 says refuse; log entry 3). -/
  | portProtocol
deriving DecidableEq, Repr

end Sys2Proof.Machine
end

