-- ==== Sys2Proof/Machine/Flags.lean ====
section
/-!
DEFINITION. The status register (spec/10_state.md R29) and the codes recorded in it
(spec/60_exceptions.md R151, R157, R158). There are no other flags (R30).
-/

namespace Sys2Proof.Machine

/-- The code of an error kind (R151). -/
def errorCode : CmdError → BitVec 4
  | .unsupportedSize => 1
  | .singularMatrix => 2
  | .noInverse => 3
  | .badModulus => 4
  | .illegalCommand => 5

/-- STATUS with ERR = `err` in bits 3:0, RV = `rv` in bit 4 and 0 above (R29). -/
def statusWord (rv : Bool) (err : BitVec 4) : Word :=
  (BitVec.ofBool rv).setWidth 32 <<< 4 ||| err.setWidth 32

/-- STATUS after an error: ERR is the code, RV is 0 (R157). -/
def errorStatus (e : CmdError) : Word := statusWord false (errorCode e)

/-- STATUS after a success: ERR is 0, RV is 1 (R158). -/
def okStatus : Word := statusWord true 0

/-- ERR, bits 3:0 of a status word (R29). -/
def statusErr (w : Word) : BitVec 4 := w.extractLsb' 0 4

/-- RV, bit 4 of a status word (R29). -/
def statusRv (w : Word) : Bool := w.getLsbD 4

/-- What a read of STATUS gives: bits 31:5 always read as 0 (R29). -/
def statusVisible (w : Word) : Word := (w.extractLsb' 0 5).setWidth 32

end Sys2Proof.Machine
end

