-- ==== Sys2Proof/Machine/Operands.lean ====
section
/-!
DEFINITION. How a command reads its operands, and the numeric law (spec/00_scope.md R6 to R9;
spec/10_state.md R22 to R24, R32). Arithmetic is exact over the integers (R8): every value is an `Int`
or a `Nat`, and only `zext32` brings one back into a register.
-/

namespace Sys2Proof.Machine

/-- `uint(r)` (R6). -/
def uint (w : Word) : Nat := w.toNat

/-- `sint(r)`: the word read as two's complement (R6). -/
def sint (w : Word) : Int := w.toInt

/-- `zext32(v)`: the word whose `uint` is v, for v below 2^32 (R6). -/
def zext32 (v : Nat) : Word := BitVec.ofNat 32 v

/-- `red(v, m)`: the floored residue, in 0..m-1 for m ≥ 1 (R7). `red(v, 0)` is not defined and no
command evaluates it (R154; spec/93_implementation_defined.md V7; log entry 7). -/
def red (v : Int) (m : Nat) : Nat := (v % (m : Int)).toNat

/-- `m`, that is MOD[15:0] (R9, R32). -/
def State.modulus (s : State) : Nat := (s.mod.extractLsb' 0 16).toNat

/-- A square integer matrix of a legal dimension. -/
abbrev IntMatrix (d : Dim) := Fin d.n → Fin d.n → Int

/-- An integer vector of a legal dimension. -/
abbrev IntVector (d : Dim) := Fin d.n → Int

/-- The register number 3·i + j of entry (i, j), the same for A and for matrix results (R22, R27). -/
def cell (d : Dim) (i j : Fin d.n) : Fin 9 :=
  ⟨Config.stride * i.val + j.val, by have := d.n_le; have := i.isLt; have := j.isLt; show 3 * i.val + j.val < 9; omega⟩

/-- The register number of component j of a vector (R23). -/
def component (d : Dim) (j : Fin d.n) : Fin 3 :=
  ⟨j.val, by have := d.n_le; have := j.isLt; omega⟩

/-- `a(i,j) = sint(A[3·i + j])`, the upper-left part that a command of dimension n reads (R9, R22). -/
def State.matrix (s : State) (d : Dim) : IntMatrix d := fun i j => sint (s.a.get (cell d i j))

/-- `v(j) = sint(V[j])` (R9, R23). -/
def State.vector (s : State) (d : Dim) : IntVector d := fun j => sint (s.v.get (component d j))

/-- `sint(SA)` (R24). -/
def State.scalar (s : State) : Int := sint s.sa

/-- The dimension an N field names: nothing unless it is 1, 2 or 3 (R73, R155). -/
def dimOfField (n : BitVec 4) : Option Dim :=
  match n.toNat with
  | 1 => some .one
  | 2 => some .two
  | 3 => some .three
  | _ => none

end Sys2Proof.Machine
end

