-- ==== Sys2Proof/Machine/Ops.lean ====
section
/-!
DEFINITION. The named operations on the registers: the port's read of an index and its plain writes
(spec/20_memory.md R52, R53), the writes of results (spec/10_state.md R27), the end of a command in an
error or in success (spec/60_exceptions.md R157, R158), the checks every command begins with
(spec/30_encoding.md R74 steps 4 to 6), and reset (spec/70_reset_and_hazards.md R180). There is nothing
to return from (R162), so there is no return operation.
-/

namespace Sys2Proof.Machine

/-! ## The port's view of the registers -/

/-- What a read of MOD gives: bits 31:16 are hardwired 0 (R32). -/
def modVisible (w : Word) : Word := (w.extractLsb' 0 16).setWidth 32

/-- `RegRead(idx)` (R52). It changes no state. -/
def regRead (idx : WordIndex) (s : State) : Word :=
  let i := idx.toNat
  if i = 0 then 0
  else if i = 1 then statusVisible s.status
  else if i = 2 then modVisible s.mod
  else if i = 3 then s.sa
  else if h : 4 ≤ i ∧ i ≤ 12 then s.a.get ⟨i - 4, by omega⟩
  else if h : 13 ≤ i ∧ i ≤ 15 then s.v.get ⟨i - 13, by omega⟩
  else if h : 16 ≤ i ∧ i ≤ 24 then s.r.get ⟨i - 16, by omega⟩
  else 0

/-- What `RegWrite(idx, w)` stores at every index but 0 (R53): MOD keeps the lower 16 bits (R32),
STATUS, R and the reserved indices ignore the write (R55, R56). Index 0 stores nothing either (R31);
the command it starts is `regWrite`'s. -/
def storeRegister (idx : WordIndex) (w : Word) (s : State) : State :=
  let i := idx.toNat
  if i = 2 then { s with mod := modVisible w }
  else if i = 3 then { s with sa := w }
  else if h : 4 ≤ i ∧ i ≤ 12 then { s with a := s.a.set (i - 4) w (by omega) }
  else if h : 13 ≤ i ∧ i ≤ 15 then { s with v := s.v.set (i - 13) w (by omega) }
  else s

/-- The byte offset of a word index, 4 · idx (R20): a convenience of the spec, no address the port
knows (R57). -/
def byteOffset (idx : WordIndex) : Nat := 4 * idx.toNat

/-! ## Results -/

/-- Nine registers, register k holding `f k`. -/
def nineOf (f : Fin 9 → Word) : Vector Word 9 :=
  #v[f 0, f 1, f 2, f 3, f 4, f 5, f 6, f 7, f 8]

/-- A scalar result goes to R0 (R27). -/
def writeScalar (x : Nat) (s : State) : State := { s with r := s.r.set 0 (zext32 x) }

/-- A matrix result: entry (i, j) goes to R[3·i + j] for i, j < n; every other R register keeps its
value (R27). Register k is entry (k / 3, k mod 3). -/
def writeMatrix (d : Dim) (f : Fin d.n → Fin d.n → Nat) (s : State) : State :=
  { s with
    r := nineOf fun k =>
      if h : k.val / Config.stride < d.n ∧ k.val % Config.stride < d.n then
        zext32 (f ⟨k.val / Config.stride, h.1⟩ ⟨k.val % Config.stride, h.2⟩)
      else s.r.get k }

/-- A vector result: component i goes to R[i] for i < n; every other R register keeps its value
(R27). -/
def writeVector (d : Dim) (f : Fin d.n → Nat) (s : State) : State :=
  { s with
    r := nineOf fun k => if h : k.val < d.n then zext32 (f ⟨k.val, h⟩) else s.r.get k }

/-! ## How a command ends -/

/-- `raise E` (R157), the block's exception entry: STATUS.ERR is the code, STATUS.RV is 0, and nothing
else changes; control goes nowhere. -/
def raise (e : CmdError) (s : State) : State := { s with status := errorStatus e }

/-- `complete` (R158): STATUS.ERR is 0 and STATUS.RV is 1, together with the result's writes. -/
def complete (s : State) : State := { s with status := okStatus }

/-- A command's end: its results were written in `t`, or it ends in an error and `s` is as it was
(R12, R159). -/
def finish (s : State) : Except CmdError State → State
  | .ok t => complete t
  | .error e => raise e s

/-- R74 steps 4 and 5: read MOD[15:0] once; 0 is BadModulus (R154). -/
def withModulus (s : State) (body : Nat → Except CmdError State) : State :=
  finish s (if s.modulus = 0 then .error .badModulus else body s.modulus)

/-- R74 steps 4 to 6, for the commands with a size: then N outside 1, 2, 3 is UnsupportedSize (R155). -/
def withSize (n : BitVec 4) (s : State) (body : Dim → Nat → Except CmdError State) : State :=
  withModulus s fun m =>
    match dimOfField n with
    | none => .error .unsupportedSize
    | some d => body d m

/-! ## Reset -/

/-- The reset state of the block (R37, R180); the host's own side (its script and what it has read) is
no state of the block and stays, but the request it was holding is dropped (R181). -/
def resetBlock (s : State) : State :=
  { State.reset with script := s.script, readLog := s.readLog }

end Sys2Proof.Machine
end

