-- ==== Sys2Proof/Machine/Adjugate.lean ====
section
/-!
DEFINITION. ADJ, the modular adjugate matrix (spec/42_adjugate.md).
-/

namespace Sys2Proof.Machine

/-- adj_1 = [1], whatever the entry (R111, R112). -/
def adj1 (_ : Fin 1 → Fin 1 → Int) : Fin 1 → Fin 1 → Int := fun _ _ => 1

/-- adj_2 (R111). -/
def adj2 (a : Fin 2 → Fin 2 → Int) : Fin 2 → Fin 2 → Int
  | 0, 0 => a 1 1
  | 0, 1 => -a 0 1
  | 1, 0 => -a 1 0
  | 1, 1 => a 0 0

/-- adj_3 (R111). -/
def adj3 (a : Fin 3 → Fin 3 → Int) : Fin 3 → Fin 3 → Int
  | 0, 0 => a 1 1 * a 2 2 - a 1 2 * a 2 1
  | 0, 1 => a 0 2 * a 2 1 - a 0 1 * a 2 2
  | 0, 2 => a 0 1 * a 1 2 - a 0 2 * a 1 1
  | 1, 0 => a 1 2 * a 2 0 - a 1 0 * a 2 2
  | 1, 1 => a 0 0 * a 2 2 - a 0 2 * a 2 0
  | 1, 2 => a 0 2 * a 1 0 - a 0 0 * a 1 2
  | 2, 0 => a 1 0 * a 2 1 - a 1 1 * a 2 0
  | 2, 1 => a 0 1 * a 2 0 - a 0 0 * a 2 1
  | 2, 2 => a 0 0 * a 1 1 - a 0 1 * a 1 0

/-- The adjugate `adj_n(a)`, exact over the integers (R111). -/
def adjugate : (d : Dim) → IntMatrix d → IntMatrix d
  | .one, a => adj1 a
  | .two, a => adj2 a
  | .three, a => adj3 a

/-- ADJ n (R110): R[3·i + j] is the residue of entry (i, j) of the adjugate. -/
def execAdj (n : BitVec 4) (s : State) : Host.Outcome State Fault Refusal :=
  .next (withSize n s fun d m =>
    .ok (writeMatrix d (fun i j => red (adjugate d (s.matrix d) i j) m) s))

end Sys2Proof.Machine
end

