-- ==== Sys2Proof/Machine/Determinant.lean ====
section
/-!
DEFINITION. DET, the modular determinant (spec/40_determinant.md).
-/

namespace Sys2Proof.Machine

/-- det_1 (R91). -/
def det1 (a : Fin 1 → Fin 1 → Int) : Int := a 0 0

/-- det_2 (R91). -/
def det2 (a : Fin 2 → Fin 2 → Int) : Int := a 0 0 * a 1 1 - a 0 1 * a 1 0

/-- det_3, the expansion along row 0 (R91). -/
def det3 (a : Fin 3 → Fin 3 → Int) : Int :=
  a 0 0 * (a 1 1 * a 2 2 - a 1 2 * a 2 1)
    - a 0 1 * (a 1 0 * a 2 2 - a 1 2 * a 2 0)
    + a 0 2 * (a 1 0 * a 2 1 - a 1 1 * a 2 0)

/-- The determinant `det_n(a)`, exact over the integers (R91). -/
def determinant : (d : Dim) → IntMatrix d → Int
  | .one, a => det1 a
  | .two, a => det2 a
  | .three, a => det3 a

/-- DET n (R90): R0 is the determinant's residue; every determinant is an ordinary result. -/
def execDet (n : BitVec 4) (s : State) : Host.Outcome State Fault Refusal :=
  .next (withSize n s fun d m => .ok (writeScalar (red (determinant d (s.matrix d)) m) s))

end Sys2Proof.Machine
end

