-- ==== Sys2Proof/Machine/ScalarInverse.lean ====
section
/-!
DEFINITION. MODINV, the modular inverse of a scalar (spec/41_modular_inverse_scalar.md).
-/

namespace Sys2Proof.Machine

/-- `minv(a, m)`: the first x in 1, 2, .., m-1 with red(a·x, m) = 1, or nothing (R100). The search is
the definition of the result (R101); at m = 1 the interval is empty (R103). -/
def minv (a : Int) (m : Nat) : Option Nat :=
  (List.range' 1 (m - 1)).find? fun x => red (a * x) m == 1

/-- MODINV (R100): R0 is the inverse of sint(SA) modulo m, or the command ends with NoInverse. -/
def execModinv (s : State) : Host.Outcome State Fault Refusal :=
  .next (withModulus s fun m =>
    match minv s.scalar m with
    | some x => .ok (writeScalar x s)
    | none => .error .noInverse)

end Sys2Proof.Machine
end

