-- ==== Sys2Proof/Machine/MatrixInverse.lean ====
section
/-!
DEFINITION. MATINV, the modular matrix inverse (spec/43_matrix_inverse.md).
-/

namespace Sys2Proof.Machine

/-- Step 3 of MATINV: every reduced adjugate entry times the scalar inverse, reduced (R120, R123). -/
def scaledAdjugate (d : Dim) (a : IntMatrix d) (x m : Nat) (i j : Fin d.n) : Nat :=
  red ((x : Int) * (red (adjugate d a i j) m : Int)) m

/-- MATINV n (R120): the zero test on the reduced determinant comes before the search (R122). SA is
neither read nor written, and neither the determinant nor its inverse is stored. -/
def execMatinv (n : BitVec 4) (s : State) : Host.Outcome State Fault Refusal :=
  .next (withSize n s fun d m =>
    if red (determinant d (s.matrix d)) m = 0 then .error .singularMatrix
    else
      match minv (red (determinant d (s.matrix d)) m) m with
      | none => .error .noInverse
      | some x => .ok (writeMatrix d (scaledAdjugate d (s.matrix d) x m) s))

end Sys2Proof.Machine
end

