-- ==== Sys2Proof/Machine/MatrixVector.lean ====
section
/-!
DEFINITION. MATVEC, the modular matrix-vector product (spec/44_matrix_vector_product.md).
-/

namespace Sys2Proof.Machine

/-- s(i) for n = 1 (R130). -/
def product1 (a : Fin 1 → Fin 1 → Int) (v : Fin 1 → Int) (i : Fin 1) : Int := a i 0 * v 0

/-- s(i) for n = 2 (R130). -/
def product2 (a : Fin 2 → Fin 2 → Int) (v : Fin 2 → Int) (i : Fin 2) : Int :=
  a i 0 * v 0 + a i 1 * v 1

/-- s(i) for n = 3 (R130). -/
def product3 (a : Fin 3 → Fin 3 → Int) (v : Fin 3 → Int) (i : Fin 3) : Int :=
  a i 0 * v 0 + a i 1 * v 1 + a i 2 * v 2

/-- The product s(i) = Σ_j a(i,j)·v(j), the vector a column on the right, exact over the integers
(R130, R131). -/
def product : (d : Dim) → IntMatrix d → IntVector d → IntVector d
  | .one, a, v => product1 a v
  | .two, a, v => product2 a v
  | .three, a, v => product3 a v

/-- MATVEC n (R130): R[i] is the residue of component i of the product. -/
def execMatvec (n : BitVec 4) (s : State) : Host.Outcome State Fault Refusal :=
  .next (withSize n s fun d m =>
    .ok (writeVector d (fun i => red (product d (s.matrix d) (s.vector d) i) m) s))

end Sys2Proof.Machine
end

