-- ==== Sys2Proof/Machine/Dispatch.lean ====
section
/-! DEFINITION. The one dispatch of a command to its meaning (spec/30_encoding.md R74 step 7). -/

namespace Sys2Proof.Machine

def exec (i : Instr) (s : State) : Host.Outcome State Fault Refusal :=
  match i with
  | .det n => Sys2Proof.Machine.execDet n s
  | .modinv => Sys2Proof.Machine.execModinv s
  | .adj n => Sys2Proof.Machine.execAdj n s
  | .matinv n => Sys2Proof.Machine.execMatinv n s
  | .matvec n => Sys2Proof.Machine.execMatvec n s

end Sys2Proof.Machine
end

