-- ==== Sys2Proof/Machine/Port.lean ====
section
/-!
DEFINITION. The host register port (spec/20_memory.md R50 to R53): a write to an index, a transaction,
one rising edge of the clock, and what the host of the model's script does in one cycle.
-/

namespace Sys2Proof.Machine

/-- A write of word `w` to CMD: decode it and run the command, as one atomic step; a word that encodes no
command ends with IllegalCommand (R31, R74, R75). -/
def runCommand (w : Word) (s : State) : Host.Outcome State Fault Refusal :=
  match decode w with
  | .ok i => exec i s
  | .error _ => .next (raise .illegalCommand s)

/-- `RegWrite(idx, w)` (R53). -/
def regWrite (idx : WordIndex) (w : Word) (s : State) : Host.Outcome State Fault Refusal :=
  if idx = 0 then runCommand w s else .next (storeRegister idx w s)

/-- The effect of a transaction that completes (R51): a read changes nothing in the block, and its value
is what the host's log gains (R13); a write is `RegWrite`. -/
def transact (t : Transaction) (s : State) : Host.Outcome State Fault Refusal :=
  match t with
  | .read idx => .next { s with readLog := s.readLog ++ [regRead idx s] }
  | .write idx w => regWrite idx w s

/-! ## The signals -/

/-- The request the inputs carry: `we`, `addr` and `wdata` are valid only while `req` = 1, and `wdata`
only for a write (R50). -/
def PortIn.request (p : PortIn) : Option Transaction :=
  if p.req then some (if p.we then .write p.addr p.wdata else .read p.addr) else none

/-- The inputs of a read of `idx`. -/
def readSignals (idx : WordIndex) : PortIn :=
  { rst := false, req := true, we := false, addr := idx, wdata := 0 }

/-- The inputs of a write of `w` to `idx`. -/
def writeSignals (idx : WordIndex) (w : Word) : PortIn :=
  { rst := false, req := true, we := true, addr := idx, wdata := w }

/-- The inputs of a cycle without a request. -/
def idleSignals : PortIn :=
  { rst := false, req := false, we := false, addr := 0, wdata := 0 }

/-- The inputs of a cycle with `rst` = 1 and no request. -/
def resetSignals : PortIn :=
  { rst := true, req := false, we := false, addr := 0, wdata := 0 }

/-- The outputs at the edge (R50, R180): for a request, `ack` when the block is done; never while `rst` =
1; `rdata` for an acknowledged read. DESIGN CHOICE: no value otherwise (log entry 9). DESIGN CHOICE (log
entry 15): `ack` is 0 in a cycle with `req` = 0, of which the spec does not say what it shows (R13).
DESIGN CHOICE (log entry 14): a request held from earlier is not looked at, so where the host breaks the
handshake (V2: no meaning is given, and `clockEdge` refuses the step) the outputs are those of the
request driven now, with `ack` = 1 and, for a read, the word at the new address, when `done` is true. -/
def portOut (p : PortIn) (done : Bool) (s : State) : PortOut :=
  let ack := !p.rst && p.req && done
  { ack := ack, rdata := if ack && !p.we then some (regRead p.addr s) else none }

/-! ## One edge -/

/-- One rising edge of `clk` (R50, R51, R180). With `rst` = 1 the block takes its reset state and a
pending transaction is dropped (R181). Otherwise a request that was raised earlier must still be there
unchanged (R51), or the host has broken the handshake (V2, log entry 3); without a request nothing
changes; a request completes when the block is done and otherwise waits. -/
def clockEdge (p : PortIn) (done : Bool) (s : State) : Host.Outcome State Fault Refusal :=
  if p.rst then .next (resetBlock s)
  else if s.held ≠ none ∧ s.held ≠ p.request then .refused .portProtocol
  else
    match p.request with
    | none => .next s
    | some t => if done then transact t { s with held := none } else .next { s with held := some t }

/-- What follows when a step of the port answers a next state. -/
def andThen (o : Host.Outcome State Fault Refusal) (f : State → State) :
    Host.Outcome State Fault Refusal :=
  match o with
  | .next s => .next (f s)
  | .fault e => .fault e
  | .refused e => .refused e

/-- One cycle of the host's script. `copy` reads and, once the read is acknowledged, goes on to write the
value read (R80 `MOVRA`); `done` is the read's, and DESIGN CHOICE (log entry 16): the write is acknowledged
at its first edge, where the spec leaves the number of cycles open (R13, R51). `check` reads
STATUS and, unless it is 0x00000010, does nothing more (R80 `CHK`, R140). -/
def hostCycle (c : HostAction) (s : State) : Host.Outcome State Fault Refusal :=
  match c with
  | .drive p done => clockEdge p done s
  | .copy src dst done =>
    andThen (clockEdge (readSignals src) done s) fun t =>
      if done then { t with script := .drive (writeSignals dst (regRead src s)) true :: t.script }
      else t
  | .check done =>
    andThen (clockEdge (readSignals 1) done s) fun t =>
      if done ∧ regRead 1 s ≠ 0x00000010 then { t with script := [] } else t

/-- One step of the machine: the next cycle of the host's script. With nothing left in the script the
host does nothing more and the state stays (R13, R51; log entry 5). -/
def portStep (s : State) : Host.Outcome State Fault Refusal :=
  match s.script with
  | [] => .next s
  | c :: rest => hostCycle c { s with script := rest }

/-- The host's next action is the write of command word `w` to CMD, acknowledged at the next edge, with no
other request pending. -/
def placeCommand (w : Word) (s : State) : State :=
  { s with script := .drive (writeSignals 0 w) true :: s.script, held := none }

end Sys2Proof.Machine
end

