-- ==== Sys2Proof/Machine/Step.lean ====
section
/-! DEFINITION. One step of the machine, and how the host's next command is placed. -/

namespace Sys2Proof.Machine

/-- One step: one rising edge of the port's clock, driven by the host's script (log entries 1, 2). -/
def step (s : State) : Host.Outcome State Fault Refusal := portStep s

/-- `s` with the command whose bits are `w` (as spec/opcode_table.json numbers them, those at or above
`nbits` 0) as what the host writes to CMD at the next step. The block fetches nothing (spec/10_state.md
R28): this is the host's own next action (log entry 1). -/
def State.withFetchWord (s : State) (nbits w : Nat) : State :=
  placeCommand (BitVec.ofNat 32 (w % 2 ^ nbits)) s

end Sys2Proof.Machine
end

