-- ==== Sys2Proof/Machine/Assembly.lean ====
section
/-!
DEFINITION. The notation for host programs: register names, lines, and the expansion of every line and
pseudo-instruction into what the host does at the port (spec/30_encoding.md R79, R80). A program runs as
the `script` of a state. Every transaction of an assembled program is acknowledged at its first edge (log
entry 2).
-/

namespace Sys2Proof.Machine

/-- The register names of R79, and a bare reserved index as the test vectors write it
(spec/95_test_vectors.md PORT-7). -/
inductive RegName
  | cmd
  | status
  | mod
  | sa
  | a (k : Fin 9)
  | v (k : Fin 3)
  | r (k : Fin 9)
  | reserved (k : Fin 7)
deriving DecidableEq, Repr

/-- `idx(reg)`, the word index of R20. -/
def indexOf : RegName → WordIndex
  | .cmd => 0
  | .status => 1
  | .mod => 2
  | .sa => 3
  | .a k => BitVec.ofNat 5 (4 + k.val)
  | .v k => BitVec.ofNat 5 (13 + k.val)
  | .r k => BitVec.ofNat 5 (16 + k.val)
  | .reserved k => BitVec.ofNat 5 (25 + k.val)

/-- A line of a host program (R79) or a pseudo-instruction (R80). -/
inductive AsmLine
  /-- `WR reg, value`. -/
  | wr (reg : RegName) (value : Int)
  /-- `RD reg`. -/
  | rd (reg : RegName)
  /-- `DET n`, `MODINV`, `ADJ n`, `MATINV n`, `MATVEC n`. -/
  | command (i : Instr)
  /-- `SETMOD m`. -/
  | setmod (m : Int)
  /-- `LDA n, [[r0..], ..]`. -/
  | lda (n : Nat) (rows : List (List Int))
  /-- `LDV n, [c0, ..]`. -/
  | ldv (n : Nat) (comps : List Int)
  /-- `LDSA a`. -/
  | ldsa (a : Int)
  /-- `RDR n×n`. -/
  | rdr (n : Nat)
  /-- `RDV n`. -/
  | rdv (n : Nat)
  /-- `MOVRA n`. -/
  | movra (n : Nat)
  /-- `CHK`. -/
  | chk
deriving DecidableEq, Repr

/-- One write by the host. -/
def hostWrite (reg : RegName) (value : Int) : HostAction :=
  .drive (writeSignals (indexOf reg) (BitVec.ofInt 32 value)) true

/-- One read by the host. -/
def hostRead (reg : RegName) : HostAction := .drive (readSignals (indexOf reg)) true

/-- The entries (i, j) of an n by n matrix in row-major order, each with its register number 3·i + j. A
well-formed line has n at most 3, so that every entry has a register (`AsmLine.wellFormed`). -/
def elements (n : Nat) : List (Nat × Nat × Fin 9) :=
  (List.range n).flatMap fun i => (List.range n).filterMap fun j =>
    if h : 3 * i + j < 9 then some (i, j, ⟨3 * i + j, h⟩) else none

/-- The components 0 to n-1 of a vector, each with its register number. -/
def components (n : Nat) : List (Fin 3) :=
  (List.range n).filterMap fun j => if h : j < 3 then some ⟨j, h⟩ else none

/-- The expansion of a line (R79, R80). -/
def AsmLine.expand : AsmLine → List HostAction
  | .wr reg value => [hostWrite reg value]
  | .rd reg => [hostRead reg]
  | .command i => [.drive (writeSignals 0 (encode i)) true]
  | .setmod m => [hostWrite .mod m]
  | .lda n rows =>
    (elements n).filterMap fun e =>
      (rows[e.1]?.bind fun row => row[e.2.1]?).map fun x => hostWrite (.a e.2.2) x
  | .ldv n comps =>
    (components n).filterMap fun j => comps[j.val]?.map fun x => hostWrite (.v j) x
  | .ldsa a => [hostWrite .sa a]
  | .rdr n => (elements n).map fun e => hostRead (.r e.2.2)
  | .rdv n => (components n).map fun j => hostRead (.r ⟨j.val, by omega⟩)
  | .movra n => (elements n).map fun e => .copy (indexOf (.r e.2.2)) (indexOf (.a e.2.2)) true
  | .chk => [.check true]

/-- The host's script for a program. -/
def assemble (prog : List AsmLine) : List HostAction := prog.flatMap AsmLine.expand

/-- A call of one of the source's five operations (R54), the modulus first. -/
inductive SourceCall
  /-- `determinant(matrix)`. -/
  | determinant (m : Int) (d : Dim) (rows : List (List Int))
  /-- `modularInverse(a, m)`. -/
  | modularInverse (m a : Int)
  /-- `adjugate(matrix)`. -/
  | adjugate (m : Int) (d : Dim) (rows : List (List Int))
  /-- `inverseMatrix(matrix)`. -/
  | inverseMatrix (m : Int) (d : Dim) (rows : List (List Int))
  /-- `multiplyMatrixVector(matrix, vector, mod)`. -/
  | multiplyMatrixVector (m : Int) (d : Dim) (rows : List (List Int)) (comps : List Int)
deriving DecidableEq, Repr

/-- What the host stores, writes to CMD and reads back for a call (R54). -/
def SourceCall.lines : SourceCall → List AsmLine
  | .determinant m d rows =>
    [.setmod m, .lda d.n rows, .command (.det (BitVec.ofNat 4 d.n)), .rd .status, .rd (.r 0)]
  | .modularInverse m a => [.setmod m, .ldsa a, .command .modinv, .rd .status, .rd (.r 0)]
  | .adjugate m d rows =>
    [.setmod m, .lda d.n rows, .command (.adj (BitVec.ofNat 4 d.n)), .rd .status, .rdr d.n]
  | .inverseMatrix m d rows =>
    [.setmod m, .lda d.n rows, .command (.matinv (BitVec.ofNat 4 d.n)), .rd .status, .rdr d.n]
  | .multiplyMatrixVector m d rows comps =>
    [.setmod m, .lda d.n rows, .ldv d.n comps, .command (.matvec (BitVec.ofNat 4 d.n)), .rd .status,
      .rdv d.n]

/-- A program loaded for the host to run: the model's stand-in for the host's own storage (log entry
1). -/
def loadProgram (prog : List AsmLine) (s : State) : State := { s with script := assemble prog }

end Sys2Proof.Machine
end

