-- ==== Sys2Proof/Safety.lean ====
section
/-!
DEFINITION. What counts as a legal state of the block, in the terms the statements use. Every part is a
fact the spec gives of every reachable state (spec/10_state.md R26, R29, R32;
spec/93_implementation_defined.md V8).
-/

namespace Sys2Proof.Machine

/-- STATUS is 0x00000000, 0x00000010, or an error code 1 to 5 with RV = 0 (R29: "No other value ever
occurs"). -/
def LegalStatus (w : Word) : Prop :=
  w = 0x00000000 ∨ w = 0x00000010 ∨ w = 0x00000001 ∨ w = 0x00000002 ∨ w = 0x00000003
    ∨ w = 0x00000004 ∨ w = 0x00000005

/-- MOD[31:16] is 0 (R32). -/
def LegalModulus (w : Word) : Prop := w.toNat < 65536

/-- A result register holds a residue below some modulus of at most 65535, or the reset value 0 (R26). -/
def LegalResult (w : Word) : Prop := w.toNat < 65535

/-- The invariant of the block: STATUS and MOD are legal and every result register holds a residue. -/
structure BlockInv (s : State) : Prop where
  status : LegalStatus s.status
  modulus : LegalModulus s.mod
  results : ∀ k : Fin 9, LegalResult (s.r.get k)

/-- The block's 25 registers of two states agree; the host's own side may differ (R20). -/
structure SameBlock (s t : State) : Prop where
  status : s.status = t.status
  mod : s.mod = t.mod
  sa : s.sa = t.sa
  a : s.a = t.a
  v : s.v = t.v
  r : s.r = t.r

/-! ## Registers and integer matrices, without the model's own accessors -/

/-- The nine registers hold the matrix M: entry (i, j) is register 3·i + j read as two's complement
(R6, R22). -/
def HoldsMatrix (regs : Vector Word 9) (d : Dim) (M : Matrix (Fin d.n) (Fin d.n) Int) : Prop :=
  ∀ (i j : Fin d.n) (k : Fin 9), k.val = 3 * i.val + j.val → (regs.get k).toInt = M i j

/-- The three registers hold the vector x (R6, R23). -/
def HoldsVector (regs : Vector Word 3) (d : Dim) (x : Fin d.n → Int) : Prop :=
  ∀ (j : Fin d.n) (k : Fin 3), k.val = j.val → (regs.get k).toInt = x j

/-- The nine registers hold, read as unsigned, the matrix B (R27). -/
def HoldsUnsigned (regs : Vector Word 9) (d : Dim) (B : Matrix (Fin d.n) (Fin d.n) Int) : Prop :=
  ∀ (i j : Fin d.n) (k : Fin 9), k.val = 3 * i.val + j.val → ((regs.get k).toNat : Int) = B i j

/-- Register k is in the n by n part (R22, R27). -/
def InPart (d : Dim) (k : Fin 9) : Prop := k.val / 3 < d.n ∧ k.val % 3 < d.n

/-- The registers of R that a command's result includes (the table of R27). -/
def resultRegisters : Instr → List Nat
  | .det _ => [0]
  | .modinv => [0]
  | .adj n => matrixRegisters n.toNat
  | .matinv n => matrixRegisters n.toNat
  | .matvec n => vectorRegisters n.toNat
where
  /-- A matrix result. -/
  matrixRegisters : Nat → List Nat
    | 1 => [0]
    | 2 => [0, 1, 3, 4]
    | 3 => [0, 1, 2, 3, 4, 5, 6, 7, 8]
    | _ => []
  /-- A vector result. -/
  vectorRegisters : Nat → List Nat
    | 1 => [0]
    | 2 => [0, 1]
    | 3 => [0, 1, 2]
    | _ => []

/-! ## What happens at the next edge -/

/-- The host's next action drives `p`, and `done` says whether the block is done (R50, R51). -/
def Drives (s : State) (p : PortIn) (done : Bool) (rest : List HostAction) : Prop :=
  s.script = .drive p done :: rest

/-- Transaction `t` completes at the next edge, and `rest` is what the host does after it (R51). -/
def Completes (s : State) (t : Transaction) (rest : List HostAction) : Prop :=
  ∃ p : PortIn, Drives s p true rest ∧ p.rst = false ∧ p.request = some t ∧
    (s.held = none ∨ s.held = some t)

/-- The next edge is a reset (R180). -/
def ResetNext (s : State) : Prop := ∃ p done rest, Drives s p done rest ∧ p.rst = true

/-- The next edge is a reset, or a write to index `idx` completes at it: the only causes of a change in
R36. -/
def ResetOrWrite (s : State) (idx : Nat) : Prop :=
  ∃ p done rest, Drives s p done rest ∧
    (p.rst = true ∨
      p.rst = false ∧ done = true ∧ ∃ a w, p.request = some (.write a w) ∧ a.toNat = idx)

/-! ## When an error kind applies to a write of word w to CMD (R151 to R156) -/

/-- The word encodes none of the five commands (R153). -/
def IllegalWord (w : Word) : Prop :=
  w.toNat / 256 ≠ 0 ∨ w.toNat % 16 = 0 ∨ 6 ≤ w.toNat % 16

/-- No x in 1..m-1 has residue 1 in a·x (R152). -/
def NoScalarInverse (a : Int) (m : Nat) : Prop :=
  ∀ x : Nat, 1 ≤ x → x < m → (a * x) % (m : Int) ≠ 1

/-- The error kind applies, looked at by itself (R151 to R156). -/
def Applies (w : Word) (s : State) : CmdError → Prop
  | .illegalCommand => IllegalWord w
  | .badModulus => ¬IllegalWord w ∧ s.mod.toNat % 65536 = 0
  | .unsupportedSize =>
    ¬IllegalWord w ∧ w.toNat % 16 ≠ 2 ∧ ∀ d : Dim, w.toNat / 16 % 16 ≠ d.n
  | .singularMatrix =>
    ¬IllegalWord w ∧ w.toNat % 16 = 4 ∧ ∃ (d : Dim) (M : Matrix (Fin d.n) (Fin d.n) Int),
      w.toNat / 16 % 16 = d.n ∧ HoldsMatrix s.a d M ∧ M.det % ((s.mod.toNat % 65536 : Nat) : Int) = 0
  | .noInverse =>
    ¬IllegalWord w ∧
      (w.toNat % 16 = 2 ∧ NoScalarInverse s.sa.toInt (s.mod.toNat % 65536) ∨
       w.toNat % 16 = 4 ∧ ∃ (d : Dim) (M : Matrix (Fin d.n) (Fin d.n) Int),
        w.toNat / 16 % 16 = d.n ∧ HoldsMatrix s.a d M ∧
          NoScalarInverse M.det (s.mod.toNat % 65536))

/-- The priority of an error kind, 1 the highest (R161). -/
def priority : CmdError → Nat
  | .illegalCommand => 1
  | .badModulus => 2
  | .unsupportedSize => 3
  | .singularMatrix => 4
  | .noInverse => 5

/-- The code of an error kind as a STATUS word (R151, R157). -/
def codeWord : CmdError → Word
  | .unsupportedSize => 1
  | .singularMatrix => 2
  | .noInverse => 3
  | .badModulus => 4
  | .illegalCommand => 5

end Sys2Proof.Machine
end

