-- ==== Sys2Proof/Certificates/Slice0/Obligations.lean ====
section
/-!
DEFINITION. The statements for the provers, from the numbered rules of spec/. Throughout, m is MOD[15:0],
written `s.mod.toNat % 65536`, and M is the integer matrix that the A registers hold.
-/

open Sys2Proof Sys2Proof.Machine

/-! ## Encoding -/

/-- Decode and encode agree on every command and every N (R70, R71, R72); the only words besides the
encoded one that decode to a command are MODINV's with another N (R77). -/
def Obligations.DecodeEncodeAgree : Prop :=
  ∀ i : Instr, decode (encode i) = .ok i ∧
    ∀ w : Word, decode w = .ok i →
      w = encode i ∨ i = .modinv ∧ ∃ n : BitVec 4, w = n.setWidth 32 <<< 4 ||| 2

/-- R72: a word selects the command of a row exactly when `(w & mask) == match`. -/
def Obligations.OpcodeMapSelects : Prop :=
  ∀ w : Word, ∀ row ∈ opcodeMap,
    (w &&& row.mask = row.pattern ↔ ∃ i, decode w = .ok i ∧ mnemonicOf i = row.mnemonic)

/-- R75, R153: which words are illegal, how many they are, and that writing one to CMD records code 5
with RV = 0 and changes nothing else, whatever MOD holds. -/
def Obligations.IllegalWordsRaise : Prop :=
  (∀ w : Word, IllegalWord w ↔ ∀ i, decode w ≠ .ok i) ∧
  {w : Word | IllegalWord w}.ncard = 4294967216 ∧
  IllegalWord 0x00000000 ∧ IllegalWord 0xFFFFFFFF ∧
  ∀ (w : Word) (s : State), IllegalWord w → regWrite 0 w s = .next { s with status := 0x00000005 }

/-- R81: the worked words. -/
def Obligations.WorkedWords : Prop :=
  decode 0x00000031 = .ok (.det 3) ∧ decode 0x00000034 = .ok (.matinv 3) ∧
  decode 0x00000025 = .ok (.matvec 2) ∧ decode 0x00000013 = .ok (.adj 1) ∧
  decode 0x00000002 = .ok .modinv ∧ decode 0x00000001 = .ok (.det 0) ∧
  decode 0x00000041 = .ok (.det 4) ∧ decode 0x00000131 = .error .zeroField ∧
  decode 0x00000036 = .error .reservedOp ∧ decode 0x00000030 = .error .reservedOp

/-- R77: all sixteen words with OP 2 run the same MODINV, the assembler emits 0x00000002, and no other
command has two words; no word leaves every register as it is in every state. -/
def Obligations.ModinvIgnoresN : Prop :=
  (∀ (n : BitVec 4) (s : State),
    regWrite 0 (n.setWidth 32 <<< 4 ||| 2) s = exec .modinv s) ∧
  encode .modinv = 0x00000002 ∧
  (∀ (w w' : Word) (i : Instr), decode w = .ok i → decode w' = .ok i → i ≠ .modinv → w = w') ∧
  ∀ w : Word, ∃ s t, regWrite 0 w s = .next t ∧ t ≠ s

/-- R74: the decoding procedure, test by test in its order, for every word and state. -/
def Obligations.DecodeProcedure : Prop :=
  ∀ (w : Word) (s : State),
    let op := w.toNat % 16
    let n := w.toNat / 16 % 16
    regWrite 0 w s =
      if w.toNat / 256 ≠ 0 then .next { s with status := 0x00000005 }
      else if op = 0 ∨ 6 ≤ op then .next { s with status := 0x00000005 }
      else if s.mod.toNat % 65536 = 0 then .next { s with status := 0x00000004 }
      else if op ≠ 2 ∧ ¬(n = 1 ∨ n = 2 ∨ n = 3) then .next { s with status := 0x00000001 }
      else if op = 1 then exec (.det (BitVec.ofNat 4 n)) s
      else if op = 2 then exec .modinv s
      else if op = 3 then exec (.adj (BitVec.ofNat 4 n)) s
      else if op = 4 then exec (.matinv (BitVec.ofNat 4 n)) s
      else exec (.matvec (BitVec.ofNat 4 n)) s

/-! ## The five commands: results, errors, completion -/

/-- R90: DET n. The determinant is Mathlib's, of the matrix the registers hold. -/
def Obligations.DetResult : Prop :=
  ∀ (n : BitVec 4) (s : State) (m : Nat), m = s.mod.toNat % 65536 →
    encode (.det n) = n.setWidth 32 <<< 4 ||| 1 ∧
    (m = 0 → exec (.det n) s = .next { s with status := 0x00000004 }) ∧
    (m ≠ 0 → (∀ d : Dim, n.toNat ≠ d.n) →
      exec (.det n) s = .next { s with status := 0x00000001 }) ∧
    ∀ (d : Dim) (M : Matrix (Fin d.n) (Fin d.n) Int),
      m ≠ 0 → n.toNat = d.n → HoldsMatrix s.a d M →
        exec (.det n) s = .next
          { s with r := s.r.set 0 (BitVec.ofInt 32 (M.det % (m : Int))), status := 0x00000010 }

/-- R100, R103: MODINV, its words, its errors and its result. For m ≥ 2 an x exists exactly when gcd(|a|, m) = 1 (R102). -/
def Obligations.ModinvResult : Prop :=
  encode .modinv = 0x00000002 ∧
  (∀ w : Word, decode w = .ok .modinv ↔ w.toNat / 256 = 0 ∧ w.toNat % 16 = 2) ∧
  ∀ (s : State) (m : Nat) (a : Int), m = s.mod.toNat % 65536 → a = s.sa.toInt →
    (m = 0 → exec .modinv s = .next { s with status := 0x00000004 }) ∧
    (m = 1 → exec .modinv s = .next { s with status := 0x00000003 }) ∧
    (2 ≤ m → Nat.gcd a.natAbs m ≠ 1 → exec .modinv s = .next { s with status := 0x00000003 }) ∧
    (2 ≤ m → Nat.gcd a.natAbs m = 1 →
      ∃ x : Nat, 1 ≤ x ∧ x < m ∧ (a * x) % (m : Int) = 1 ∧
        exec .modinv s = .next
          { s with r := s.r.set 0 (BitVec.ofNat 32 x), status := 0x00000010 })

/-- R110: ADJ n. The adjugate is Mathlib's, of the matrix the registers hold. -/
def Obligations.AdjResult : Prop :=
  ∀ (n : BitVec 4) (s : State) (m : Nat), m = s.mod.toNat % 65536 →
    encode (.adj n) = n.setWidth 32 <<< 4 ||| 3 ∧
    (m = 0 → exec (.adj n) s = .next { s with status := 0x00000004 }) ∧
    (m ≠ 0 → (∀ d : Dim, n.toNat ≠ d.n) →
      exec (.adj n) s = .next { s with status := 0x00000001 }) ∧
    ∀ (d : Dim) (M : Matrix (Fin d.n) (Fin d.n) Int),
      m ≠ 0 → n.toNat = d.n → HoldsMatrix s.a d M →
        ∃ r', exec (.adj n) s = .next { s with r := r', status := 0x00000010 } ∧
          HoldsUnsigned r' d (fun i j => M.adjugate i j % (m : Int)) ∧
          ∀ k, ¬InPart d k → r'.get k = s.r.get k

/-- R120: MATINV n, its errors in their order and its result. -/
def Obligations.MatinvResult : Prop :=
  ∀ (n : BitVec 4) (s : State) (m : Nat), m = s.mod.toNat % 65536 →
    encode (.matinv n) = n.setWidth 32 <<< 4 ||| 4 ∧
    (m = 0 → exec (.matinv n) s = .next { s with status := 0x00000004 }) ∧
    (m ≠ 0 → (∀ d : Dim, n.toNat ≠ d.n) →
      exec (.matinv n) s = .next { s with status := 0x00000001 }) ∧
    ∀ (d : Dim) (M : Matrix (Fin d.n) (Fin d.n) Int),
      m ≠ 0 → n.toNat = d.n → HoldsMatrix s.a d M →
        (M.det % (m : Int) = 0 → exec (.matinv n) s = .next { s with status := 0x00000002 }) ∧
        (M.det % (m : Int) ≠ 0 → NoScalarInverse (M.det % (m : Int)) m →
          exec (.matinv n) s = .next { s with status := 0x00000003 }) ∧
        ∀ x : Nat, 1 ≤ x → x < m → (M.det % (m : Int) * x) % (m : Int) = 1 →
          ∃ r', exec (.matinv n) s = .next { s with r := r', status := 0x00000010 } ∧
            HoldsUnsigned r' d (fun i j => (x * (M.adjugate i j % (m : Int))) % (m : Int)) ∧
            ∀ k, ¬InPart d k → r'.get k = s.r.get k

/-- R130: MATVEC n. The product is Mathlib's, of the matrix and the vector the registers hold. -/
def Obligations.MatvecResult : Prop :=
  ∀ (n : BitVec 4) (s : State) (m : Nat), m = s.mod.toNat % 65536 →
    encode (.matvec n) = n.setWidth 32 <<< 4 ||| 5 ∧
    (m = 0 → exec (.matvec n) s = .next { s with status := 0x00000004 }) ∧
    (m ≠ 0 → (∀ d : Dim, n.toNat ≠ d.n) →
      exec (.matvec n) s = .next { s with status := 0x00000001 }) ∧
    ∀ (d : Dim) (M : Matrix (Fin d.n) (Fin d.n) Int) (x : Fin d.n → Int),
      m ≠ 0 → n.toNat = d.n → HoldsMatrix s.a d M → HoldsVector s.v d x →
        ∃ r', exec (.matvec n) s = .next { s with r := r', status := 0x00000010 } ∧
          (∀ (i : Fin d.n) (k : Fin 9), k.val = i.val →
            ((r'.get k).toNat : Int) = M.mulVec x i % (m : Int)) ∧
          ∀ k : Fin 9, d.n ≤ k.val → r'.get k = s.r.get k

/-- R112: ADJ 1 writes red(1, m) to R0, whatever A0 holds. -/
def Obligations.AdjugateOfSizeOne : Prop :=
  ∀ s : State, s.mod.toNat % 65536 ≠ 0 →
    exec (.adj 1) s = .next
      { s with r := s.r.set 0 (if s.mod.toNat % 65536 = 1 then 0 else 1), status := 0x00000010 }

/-! ## Errors -/

/-- R157: a write to CMD always answers a next state, and one that does not end in success has changed
STATUS only, to an error code with RV = 0. -/
def Obligations.ErrorsChangeOnlyStatus : Prop :=
  ∀ (w : Word) (s : State), ∃ t, regWrite 0 w s = .next t ∧
    (t.status ≠ 0x00000010 → ∃ c : BitVec 4, 1 ≤ c.toNat ∧ c.toNat ≤ 5 ∧
      t = { s with status := c.setWidth 32 } ∧ statusErr t.status = c ∧ statusRv t.status = false)

/-- R158, R27: a success leaves ERR = 0, RV = 1, and changes no register but STATUS and the R registers
of the command's result. -/
def Obligations.SuccessWritesOnlyItsResult : Prop :=
  ∀ (i : Instr) (s : State), ∃ t, exec i s = .next t ∧
    (t.status = 0x00000010 →
      t = { s with r := t.r, status := 0x00000010 } ∧
      statusErr t.status = 0 ∧ statusRv t.status = true ∧
      ∀ k : Fin 9, k.val ∉ resultRegisters i → t.r.get k = s.r.get k) ∧
    (t.status ≠ 0x00000010 → t.r = s.r)

/-- R161: a write to CMD reports the first error that applies, and succeeds when none does. -/
def Obligations.FirstErrorIsReported : Prop :=
  ∀ (w : Word) (s : State),
    (∀ e, Applies w s e → (∀ e', priority e' < priority e → ¬Applies w s e') →
      regWrite 0 w s = .next { s with status := codeWord e }) ∧
    ((∀ e, ¬Applies w s e) → ∃ t, regWrite 0 w s = .next t ∧ t.status = 0x00000010)

/-- R154: every command ends with BadModulus when MOD[15:0] = 0; writing such a value to MOD is no error;
m = 1 does not raise it. -/
def Obligations.BadModulusWhenZero : Prop :=
  (∀ (i : Instr) (s : State), s.mod.toNat % 65536 = 0 →
    exec i s = .next { s with status := 0x00000004 }) ∧
  (∀ (w : Word) (s : State), w.toNat % 65536 = 0 →
    regWrite 2 w s = .next { s with mod := 0 }) ∧
  ∀ (i : Instr) (s : State), s.mod.toNat % 65536 ≠ 0 →
    ∃ t, exec i s = .next t ∧ t.status ≠ 0x00000004

/-- R155: UnsupportedSize from the four sized commands when N is 0 or 4..15, and never from MODINV. -/
def Obligations.UnsupportedSizeOutsideOneToThree : Prop :=
  (∀ (n : BitVec 4) (s : State) (i : Instr), s.mod.toNat % 65536 ≠ 0 →
    i = .det n ∨ i = .adj n ∨ i = .matinv n ∨ i = .matvec n →
      ((n = 0 ∨ 4 ≤ n.toNat) → exec i s = .next { s with status := 0x00000001 }) ∧
      (¬(n = 0 ∨ 4 ≤ n.toNat) → ∃ t, exec i s = .next t ∧ t.status ≠ 0x00000001)) ∧
  ∀ s : State, ∃ t, exec .modinv s = .next t ∧ t.status ≠ 0x00000001

/-- R156: SingularMatrix comes from MATINV only, exactly when the reduced determinant is 0; DET and ADJ
on the same matrix succeed. -/
def Obligations.SingularOnlyFromMatinv : Prop :=
  (∀ (i : Instr) (s : State), ∃ t, exec i s = .next t ∧
    (t.status = 0x00000002 → ∃ n, i = .matinv n)) ∧
  ∀ (n : BitVec 4) (s : State) (d : Dim) (M : Matrix (Fin d.n) (Fin d.n) Int) (m : Nat),
    m = s.mod.toNat % 65536 → m ≠ 0 → n.toNat = d.n → HoldsMatrix s.a d M →
      (∃ t, exec (.matinv n) s = .next t ∧ (t.status = 0x00000002 ↔ M.det % (m : Int) = 0)) ∧
      (∃ t, exec (.det n) s = .next t ∧ t.status = 0x00000010) ∧
      (∃ t, exec (.adj n) s = .next t ∧ t.status = 0x00000010)

/-- R122: with a modulus and a legal size, MATINV reports SingularMatrix for d = 0, NoInverse exactly for
1 ≤ d ≤ m-1 with gcd(d, m) ≠ 1, and succeeds otherwise, d being the reduced determinant. -/
def Obligations.SingularBeforeNoInverse : Prop :=
  ∀ (n : BitVec 4) (s : State) (d : Dim) (M : Matrix (Fin d.n) (Fin d.n) Int) (m : Nat),
    m = s.mod.toNat % 65536 → m ≠ 0 → n.toNat = d.n → HoldsMatrix s.a d M →
      ∃ t, exec (.matinv n) s = .next t ∧
        t.status =
          if M.det % (m : Int) = 0 then 0x00000002
          else if Nat.gcd (M.det % (m : Int)).natAbs m ≠ 1 then 0x00000003
          else 0x00000010

/-- R163: errors are not sticky. The next command overwrites STATUS whatever it was; only a reset or a
write to CMD changes STATUS; a host write to STATUS is ignored and a read does not clear it. -/
def Obligations.ErrorsAreNotSticky : Prop :=
  (∀ (w x : Word) (s : State), regWrite 0 w { s with status := x } = regWrite 0 w s) ∧
  (∀ s t : State, step s = .next t → t.status ≠ s.status → ResetOrWrite s 0) ∧
  (∀ (w : Word) (s : State), regWrite 1 w s = .next s) ∧
  ∀ (idx : WordIndex) (s : State), ∃ t, transact (.read idx) s = .next t ∧ t.status = s.status

/-! ## Laws of the commands -/

/-- R124: after a successful MATINV n, R is a two-sided inverse of A modulo m. -/
def Obligations.MatinvIsTwoSidedInverse : Prop :=
  ∀ (n : BitVec 4) (s t : State) (d : Dim) (M B : Matrix (Fin d.n) (Fin d.n) Int) (m : Nat),
    m = s.mod.toNat % 65536 → n.toNat = d.n → exec (.matinv n) s = .next t →
    t.status = 0x00000010 → HoldsMatrix s.a d M → HoldsUnsigned t.r d B →
      ∀ i k : Fin d.n,
        (M * B) i k % (m : Int) = (1 : Matrix (Fin d.n) (Fin d.n) Int) i k % (m : Int) ∧
        (B * M) i k % (m : Int) = (1 : Matrix (Fin d.n) (Fin d.n) Int) i k % (m : Int)

/-- R133: with the inverse that MATINV gave for the key in A, and the ciphertext that MATVEC gave for p
in V, MATVEC gives back every p with components in 0..m-1. -/
def Obligations.MatvecWithInverseDecrypts : Prop :=
  ∀ (n : BitVec 4) (s tInv tEnc u : State) (d : Dim) (p : Fin d.n → Int) (m : Nat),
    m = s.mod.toNat % 65536 → n.toNat = d.n →
    exec (.matinv n) s = .next tInv → tInv.status = 0x00000010 →
    HoldsVector s.v d p → (∀ j, 0 ≤ p j ∧ p j < (m : Int)) →
    exec (.matvec n) s = .next tEnc →
    u.mod = s.mod → (∀ k, InPart d k → u.a.get k = tInv.r.get k) →
    (∀ (j : Fin 3) (k : Fin 9), j.val < d.n → k.val = j.val → u.v.get j = tEnc.r.get k) →
      ∃ t, exec (.matvec n) u = .next t ∧ t.status = 0x00000010 ∧
        ∀ (j : Fin d.n) (k : Fin 9), k.val = j.val → ((t.r.get k).toNat : Int) = p j

/-- R16, law L-ADJ: after DET n and ADJ n on the same A and MOD, A times the adjugate is the determinant
times the identity modulo m. -/
def Obligations.AdjugateTimesMatrixIsDet : Prop :=
  ∀ (n : BitVec 4) (s tDet tAdj : State) (d : Dim) (M B : Matrix (Fin d.n) (Fin d.n) Int) (m : Nat),
    m = s.mod.toNat % 65536 → m ≠ 0 → n.toNat = d.n →
    exec (.det n) s = .next tDet → exec (.adj n) s = .next tAdj →
    HoldsMatrix s.a d M → HoldsUnsigned tAdj.r d B →
      ∀ i k : Fin d.n,
        (M * B) i k % (m : Int) =
          (((tDet.r.get 0).toNat : Int) * (1 : Matrix (Fin d.n) (Fin d.n) Int) i k) % (m : Int)

/-- R125: MATINV n from DET n, MODINV and ADJ n. With a modulus and a legal size, its status is
SingularMatrix when DET gives 0 and otherwise the status of MODINV on DET's result; when it succeeds,
each entry is MODINV's result times ADJ's entry, reduced. -/
def Obligations.MatinvFromDetModinvAdj : Prop :=
  ∀ (n : BitVec 4) (s tDet tInv tAdj : State) (d : Dim) (m : Nat),
    m = s.mod.toNat % 65536 → m ≠ 0 → n.toNat = d.n →
    exec (.det n) s = .next tDet →
    exec .modinv { s with sa := tDet.r.get 0 } = .next tInv →
    exec (.adj n) s = .next tAdj →
      ∃ t, exec (.matinv n) s = .next t ∧
        t.status = (if tDet.r.get 0 = 0 then 0x00000002 else tInv.status) ∧
        (t.status = 0x00000010 → ∀ k, InPart d k →
          (t.r.get k).toNat = ((tInv.r.get 0).toNat * (tAdj.r.get k).toNat) % m)

/-- R26, R92, R113: every register a successful command wrote holds a residue below m, and MODINV's is
not 0 (R102). -/
def Obligations.ResultsAreResidues : Prop :=
  (∀ (i : Instr) (s t : State), exec i s = .next t → t.status = 0x00000010 →
    ∀ k : Fin 9, k.val ∈ resultRegisters i → (t.r.get k).toNat < s.mod.toNat % 65536) ∧
  ∀ s t : State, exec .modinv s = .next t → t.status = 0x00000010 → 1 ≤ (t.r.get 0).toNat

/-- R8, law L-CONG: operands that are congruent modulo m give the same STATUS and the same R. -/
def Obligations.CongruentOperandsAgree : Prop :=
  ∀ (i : Instr) (s u : State) (m : Nat), m = s.mod.toNat % 65536 → u.mod = s.mod → u.r = s.r →
    (∀ k, (u.a.get k).toInt % (m : Int) = (s.a.get k).toInt % (m : Int)) →
    (∀ k, (u.v.get k).toInt % (m : Int) = (s.v.get k).toInt % (m : Int)) →
    u.sa.toInt % (m : Int) = s.sa.toInt % (m : Int) →
      ∃ t t', exec i s = .next t ∧ exec i u = .next t' ∧ t'.status = t.status ∧ t'.r = t.r

/-- R22, R23, R24: a command looks at nothing but MOD and its own operands: A outside the n by n part, V
for every command but MATVEC (and V[n].. for MATVEC), SA for every command but MODINV, STATUS and R
do not matter. -/
def Obligations.OtherRegistersAreIgnored : Prop :=
  ∀ (i : Instr) (s u : State), u.mod = s.mod →
    (∀ n d k, (i = .det n ∨ i = .adj n ∨ i = .matinv n ∨ i = .matvec n) → n.toNat = Dim.n d →
      InPart d k → u.a.get k = s.a.get k) →
    (∀ n d, ∀ j : Fin 3, i = .matvec n → n.toNat = Dim.n d → j.val < d.n → u.v.get j = s.v.get j) →
    (i = .modinv → u.sa = s.sa) →
      ∃ t t', exec i s = .next t ∧ exec i u = .next t' ∧ t'.status = t.status ∧
        (t.status = 0x00000010 →
          ∀ k : Fin 9, k.val ∈ resultRegisters i → t'.r.get k = t.r.get k)

/-- R36, law L-IDEM: issuing a command again with nothing in between changes nothing more. -/
def Obligations.RepeatedCommandIsIdempotent : Prop :=
  ∀ (i : Instr) (s : State), ∃ t, exec i s = .next t ∧ exec i t = .next t

/-- R36, law L-FRAME: no command changes MOD, SA, A, V, nor the host's side of the port; every index but
those of STATUS and of R0 to R8 reads as before. -/
def Obligations.CommandsLeaveOperands : Prop :=
  ∀ (i : Instr) (s : State), ∃ t, exec i s = .next t ∧
    t.mod = s.mod ∧ t.sa = s.sa ∧ t.a = s.a ∧ t.v = s.v ∧
    t.script = s.script ∧ t.held = s.held ∧ t.readLog = s.readLog ∧
    ∀ idx : WordIndex, idx.toNat ≠ 1 → ¬(16 ≤ idx.toNat ∧ idx.toNat ≤ 24) →
      regRead idx t = regRead idx s

/-! ## The port -/

/-- R52: a completed read returns the table's value and changes no register; bits 31:5 of STATUS (R29)
and 31:16 of MOD (R32) read as 0. -/
def Obligations.ReadsReturnTheTable : Prop :=
  ∀ (s : State) (idx : WordIndex) (rest : List HostAction), Completes s (.read idx) rest →
    ∃ x : Word,
      step s = .next
        { s with script := rest, held := none, readLog := s.readLog ++ [x] } ∧
      (idx.toNat = 0 → x = 0) ∧
      (idx.toNat = 1 → x.toNat = s.status.toNat % 32) ∧
      (idx.toNat = 2 → x.toNat = s.mod.toNat % 65536) ∧
      (idx.toNat = 3 → x = s.sa) ∧
      (∀ k : Fin 9, idx.toNat = 4 + k.val → x = s.a.get k) ∧
      (∀ k : Fin 3, idx.toNat = 13 + k.val → x = s.v.get k) ∧
      (∀ k : Fin 9, idx.toNat = 16 + k.val → x = s.r.get k) ∧
      (25 ≤ idx.toNat → x = 0)

/-- R53: a completed write has the table's effect. -/
def Obligations.WritesHaveTheTablesEffect : Prop :=
  ∀ (s : State) (idx : WordIndex) (w : Word) (rest : List HostAction),
    Completes s (.write idx w) rest →
      let u : State := { s with script := rest, held := none }
      (idx.toNat = 0 → step s = runCommand w u) ∧
      (idx.toNat = 1 → step s = .next u) ∧
      (idx.toNat = 2 → step s = .next { u with mod := BitVec.ofNat 32 (w.toNat % 65536) }) ∧
      (idx.toNat = 3 → step s = .next { u with sa := w }) ∧
      (∀ k : Fin 9, idx.toNat = 4 + k.val → step s = .next { u with a := u.a.set k.val w }) ∧
      (∀ k : Fin 3, idx.toNat = 13 + k.val → step s = .next { u with v := u.v.set k.val w }) ∧
      (16 ≤ idx.toNat → step s = .next u)

/-- R55, R56: writes to read-only registers and reserved indices complete normally, are acknowledged, and
change nothing; reserved indices read 0. -/
def Obligations.ReadOnlyAndReservedIndices : Prop :=
  (∀ (s : State) (p : PortIn) (w : Word) (idx : WordIndex) (rest : List HostAction),
    Drives s p true rest → p.rst = false → p.request = some (.write idx w) →
    (s.held = none ∨ s.held = some (.write idx w)) → (idx.toNat = 1 ∨ 16 ≤ idx.toNat) →
      step s = .next { s with script := rest, held := none } ∧ (portOut p true s).ack = true) ∧
  ∀ (s : State) (idx : WordIndex), 25 ≤ idx.toNat → regRead idx s = 0x00000000

/-- R25, R59: an operand register reads as what was last written to it, and a write to it leaves the
value read at every other index. -/
def Obligations.OperandReadsBackWhatWasWritten : Prop :=
  ∀ (s : State) (idx : WordIndex) (w : Word), 3 ≤ idx.toNat → idx.toNat ≤ 15 →
    ∃ t, regWrite idx w s = .next t ∧ regRead idx t = w ∧
      ∀ other : WordIndex, other ≠ idx → regRead other t = regRead other s

/-- R32: a write of w to MOD stores w[15:0], reads back zero-extended, and is the m of the next
command. -/
def Obligations.ModKeepsTheLowerHalf : Prop :=
  ∀ (s : State) (w : Word), ∃ t, regWrite 2 w s = .next t ∧
    t.mod.toNat = w.toNat % 65536 ∧ (regRead 2 t).toNat = w.toNat % 65536 ∧
    ∀ other : WordIndex, other ≠ 2 → regRead other t = regRead other s

/-- R31: CMD stores nothing. It reads 0, and a write to it runs the command of its word. -/
def Obligations.CmdRunsTheWord : Prop :=
  (∀ s : State, regRead 0 s = 0x00000000) ∧
  ∀ (w : Word) (s : State) (i : Instr), decode w = .ok i → regWrite 0 w s = exec i s

/-- R10, R74: a step runs the decoded command. When the host's next action completes a write to CMD of a
word that decodes to i, the step is exec of i, after the action is taken off the script and the
request released. -/
def Obligations.StepRunsTheDecodedCommand : Prop :=
  ∀ (s : State) (w : Word) (i : Instr) (rest : List HostAction),
    Completes s (.write 0 w) rest → decode w = .ok i →
      step s = exec i { s with script := rest, held := none }

/-- R36: the frame rule for a whole step. An R register changes only by a reset or by the completed write
of a command that succeeds and whose result includes it (R27). -/
def Obligations.RegistersChangeOnlyByTheirCauses : Prop :=
  ∀ s t : State, step s = .next t →
    (t.mod ≠ s.mod → ResetOrWrite s 2) ∧
    (t.sa ≠ s.sa → ResetOrWrite s 3) ∧
    (∀ k : Fin 9, t.a.get k ≠ s.a.get k → ResetOrWrite s (4 + k.val)) ∧
    (∀ k : Fin 3, t.v.get k ≠ s.v.get k → ResetOrWrite s (13 + k.val)) ∧
    (∀ k : Fin 9, t.r.get k ≠ s.r.get k → ResetNext s ∨
      ∃ w i rest, Completes s (.write 0 w) rest ∧ decode w = .ok i ∧
        k.val ∈ resultRegisters i ∧ t.status = 0x00000010) ∧
    (t.status ≠ s.status → ResetOrWrite s 0)

/-- R51, R186: in a cycle with a request the block is not done with, or without a request, no register
changes and nothing is acknowledged; nor does a register change while the read of a copy or a check waits
(log entry 1). The moment of `ack` is the model's own input (log entry 2), and
so is giving `rdata` no value here (log entry 9). That `ack` is 0 also in a cycle with `req` = 0 is its
choice (log entry 15); R13 leaves the signals between transactions open. -/
def Obligations.NothingChangesBeforeAck : Prop :=
  (∀ (s : State) (p : PortIn) (done : Bool) (rest : List HostAction),
    Drives s p done rest → p.rst = false → (s.held = none ∨ s.held = p.request) →
    (done = false ∨ p.req = false) →
      step s = .next { s with script := rest, held := p.request } ∧
      portOut p done s = { ack := false, rdata := none }) ∧
  ∀ (s : State) (src : WordIndex) (rest : List HostAction),
    (s.held = none ∨ s.held = some (.read src)) →
    ((∃ dst, s.script = .copy src dst false :: rest) ∨ src = 1 ∧ s.script = .check false :: rest) →
      step s = .next { s with script := rest, held := some (.read src) }

/-- R50, R52: a driven read that is acknowledged shows on `rdata` the word at its index, which the step puts
into the read log; a driven write that is acknowledged shows none, and the step logs none. The read log, and giving `rdata` no value for a write, are the model's own (log entries
8, 9). -/
def Obligations.ReadDataMatchesTheLog : Prop :=
  ∀ (s : State) (p : PortIn) (rest : List HostAction),
    Drives s p true rest → p.rst = false → p.req = true → (s.held = none ∨ s.held = p.request) →
      (portOut p true s).ack = true ∧
      (p.we = false → (portOut p true s).rdata = some (regRead p.addr s)) ∧
      (p.we = true → (portOut p true s).rdata = none) ∧
      ∃ t, step s = .next t ∧ t.readLog = s.readLog ++ (portOut p true s).rdata.toList

/-- V2 (the model's choice, log entry 3): a host that changes or drops a request before `ack` is
refused: by the signals it drives, and by a copy or a check that is not the read held (log entry 1). -/
def Obligations.BrokenHandshakeIsRefused : Prop :=
  ∀ (s : State) (t : Transaction) (rest : List HostAction), s.held = some t →
    (∀ p done, Drives s p done rest → p.rst = false → p.request ≠ some t →
      step s = .refused .portProtocol) ∧
    (∀ src dst done, s.script = .copy src dst done :: rest → t ≠ .read src →
      step s = .refused .portProtocol) ∧
    ∀ done, s.script = .check done :: rest → t ≠ .read 1 → step s = .refused .portProtocol

/-- R12, R193, V2: every step answers a next state, but where the host breaks the handshake (log entry
3): then a request is held, and the host drives another request or none, without a reset, or copies or
checks (log entry 1) by a read that is not the one held. -/
def Obligations.StepAnswersUnlessHandshakeBroken : Prop :=
  ∀ s : State, (∃ t, step s = .next t) ∨
    (step s = .refused .portProtocol ∧ s.held ≠ none ∧ s.script ≠ [] ∧
      (∀ p done rest, Drives s p done rest → p.rst = false ∧ s.held ≠ p.request) ∧
      (∀ src dst done rest, s.script = .copy src dst done :: rest → s.held ≠ some (.read src)) ∧
      ∀ done rest, s.script = .check done :: rest → s.held ≠ some (.read 1))

/-! ## Host programs -/

/-- R80 `MOVRA`: one element. The host reads an index, then writes the value read to another. That the two
are one host action is the model's choice (log entry 1), and so is that the write takes one edge (log
entry 16). -/
def Obligations.CopyMovesOneElement : Prop :=
  ∀ (s : State) (k : Fin 9) (rest : List HostAction),
    (s.held = none ∨ s.held = some (.read (indexOf (.r k)))) →
    s.script = .copy (indexOf (.r k)) (indexOf (.a k)) true :: rest →
      ∃ t, step s = .next t ∧
        step t = .next { s with
          script := rest, held := none, a := s.a.set k.val (s.r.get k),
          readLog := s.readLog ++ [s.r.get k] }

/-- R80 `CHK`, R140: the host reads STATUS and goes on only if it is 0x00000010; no register changes.
The check as a host action is the model's choice (log entry 1). -/
def Obligations.CheckStopsUnlessOk : Prop :=
  ∀ (s : State) (rest : List HostAction), (s.held = none ∨ s.held = some (.read 1)) →
    s.script = .check true :: rest →
    step s = .next { s with
      script := if s.status.toNat % 32 = 16 then rest else [],
      held := none,
      readLog := s.readLog ++ [BitVec.ofNat 32 (s.status.toNat % 32)] }

/-- R79, R80: the expansions of eight fixed lines, DET 3, SETMOD 27, LDA 2, LDV 2, LDSA, RDR 2, MOVRA 2
and CHK. R80's `MOVRA` is a read and then a write of the value read, and its `CHK` a read and the host's
decision; that each is one host action, `.copy` or `.check`, is the model's choice (log entry 1), and so
is `done` = true, that every transaction is acknowledged at its first edge (log entry 2). -/
def Obligations.LinesExpandAsWritten : Prop :=
  (AsmLine.command (.det 3)).expand = [.drive (writeSignals 0 0x00000031) true] ∧
  (AsmLine.setmod 27).expand = [.drive (writeSignals 2 27) true] ∧
  (AsmLine.lda 2 [[-3, 5], [7, -2]]).expand =
    [.drive (writeSignals 4 0xFFFFFFFD) true, .drive (writeSignals 5 5) true,
     .drive (writeSignals 7 7) true, .drive (writeSignals 8 0xFFFFFFFE) true] ∧
  (AsmLine.ldv 2 [1, 25]).expand =
    [.drive (writeSignals 13 1) true, .drive (writeSignals 14 25) true] ∧
  (AsmLine.ldsa (-3)).expand = [.drive (writeSignals 3 0xFFFFFFFD) true] ∧
  (AsmLine.rdr 2).expand =
    [.drive (readSignals 16) true, .drive (readSignals 17) true,
     .drive (readSignals 19) true, .drive (readSignals 20) true] ∧
  (AsmLine.movra 2).expand =
    [.copy 16 4 true, .copy 17 5 true, .copy 19 7 true, .copy 20 8 true] ∧
  AsmLine.chk.expand = [.check true]

/-! ## Reset and the invariant -/

/-- R37: the reset values. -/
def Obligations.ResetValues : Prop :=
  State.reset.mod = 0x0000001A ∧ State.reset.status = 0x00000000 ∧ State.reset.sa = 0x00000000 ∧
  (∀ k, State.reset.a.get k = 0x00000000) ∧ (∀ k, State.reset.v.get k = 0x00000000) ∧
  (∀ k, State.reset.r.get k = 0x00000000) ∧ regRead 0 State.reset = 0x00000000

/-- R180, R181: with `rst` = 1 at the edge the registers become the reset state, nothing is acknowledged, a
pending request is dropped, and the next cycle can complete a transaction; with nothing more from the
host the block stays as it is. -/
def Obligations.ResetEdge : Prop :=
  ∀ (s : State) (p : PortIn) (done : Bool) (rest : List HostAction),
    Drives s p done rest → p.rst = true →
      (portOut p done s).ack = false ∧
      ∃ t, step s = .next t ∧ SameBlock t State.reset ∧ t.held = none ∧ t.script = rest ∧
        (rest = [] → step t = .next t) ∧
        ∀ (p' : PortIn) (tr : Transaction) (rest' : List HostAction),
          rest = .drive p' true :: rest' → p'.rst = false → p'.request = some tr →
            step t = transact tr { t with script := rest' }

/-- R183: what each command gives in the reset state. -/
def Obligations.CommandsAfterReset : Prop :=
  (∀ n : BitVec 4, n.toNat = 1 ∨ n.toNat = 2 ∨ n.toNat = 3 →
    exec (.det n) State.reset = .next { State.reset with status := 0x00000010 } ∧
    exec (.matinv n) State.reset = .next { State.reset with status := 0x00000002 } ∧
    exec (.matvec n) State.reset = .next { State.reset with status := 0x00000010 }) ∧
  exec (.adj 1) State.reset =
    .next { State.reset with r := State.reset.r.set 0 1, status := 0x00000010 } ∧
  exec (.adj 2) State.reset = .next { State.reset with status := 0x00000010 } ∧
  exec (.adj 3) State.reset = .next { State.reset with status := 0x00000010 } ∧
  exec .modinv State.reset = .next { State.reset with status := 0x00000003 }

/-- R26, R29, R32, V8: the invariant holds after reset. -/
def Obligations.ResetHasInv : Prop := BlockInv State.reset

/-- R26, R29, R32, V8: every step keeps the invariant: STATUS is one of the seven values, MOD[31:16] is 0,
every result register holds a residue. -/
def Obligations.StepKeepsInv : Prop :=
  ∀ s t : State, BlockInv s → step s = .next t → BlockInv t
end

