-- ==== Sys2Proof/Laws/Decode.lean ====
section
/-!
SUPPORT. What the decoder and the encoder do, in numbers: the fields of a word (spec/30_encoding.md R70),
which words decode to which command, and the number an encoded command is.
-/

namespace Sys2Proof

/-- ZERO as a number (R70). -/
theorem fieldZero_toNat (w : Word) : (fieldZero w).toNat = w.toNat / 256 := by
  have := w.isLt
  simp [fieldZero, BitVec.extractLsb'_toNat, Nat.shiftRight_eq_div_pow]
  omega

/-- N as a number (R70). -/
theorem fieldN_toNat (w : Word) : (fieldN w).toNat = w.toNat / 16 % 16 := by
  simp [fieldN, BitVec.extractLsb'_toNat, Nat.shiftRight_eq_div_pow]

/-- OP as a number (R70). -/
theorem fieldOp_toNat (w : Word) : (fieldOp w).toNat = w.toNat % 16 := by
  simp [fieldOp, BitVec.extractLsb'_toNat]

/-- `w = (N << 4) | OP` as a number (R70). -/
theorem encode_toNat (i : Instr) : (encode i).toNat = 16 * (nOf i).toNat + (opOf i).toNat := by
  have key : ∀ n o : BitVec 4,
      (n.setWidth 32 <<< 4 ||| o.setWidth 32 : Word).toNat = 16 * n.toNat + o.toNat := by decide
  exact key _ _

/-- The opcode numbers are 1 to 5 (R72). -/
theorem opOf_range (i : Instr) : 1 ≤ (opOf i).toNat ∧ (opOf i).toNat ≤ 5 := by
  cases i <;> simp [opOf]

/-- Which command OP and N name (R72, R77). -/
theorem commandOf_eq_some (op n : BitVec 4) (i : Instr) :
    commandOf op n = some i ↔ opOf i = op ∧ (i = .modinv ∨ nOf i = n) := by
  unfold commandOf
  constructor
  · intro h
    split at h <;> cases h <;> rename_i h' <;> simp [opOf, nOf, ← BitVec.toNat_inj, h']
  · rintro ⟨rfl, h | rfl⟩
    · subst h
      rfl
    · cases i <;> rfl

/-- Which words decode to a command (R74 steps 1 to 3). -/
theorem decode_eq_ok (w : Word) (i : Instr) :
    decode w = .ok i ↔
      w.toNat / 256 = 0 ∧ opOf i = fieldOp w ∧ (i = .modinv ∨ nOf i = fieldN w) := by
  have h0 : fieldZero w = 0 ↔ w.toNat / 256 = 0 := by
    rw [← fieldZero_toNat, ← BitVec.toNat_inj]
    rfl
  rw [← commandOf_eq_some, ← h0]
  unfold decode
  by_cases h : fieldZero w = 0
  · rw [if_neg (by simpa using h)]
    cases commandOf (fieldOp w) (fieldN w) <;> simp [h]
  · rw [if_pos h]
    exact iff_of_false (by simp) fun hc => h hc.1

end Sys2Proof
end

