-- ==== Sys2Proof/Laws/State.lean ====
section
/-!
SUPPORT. The fields of a state after each named update, one lemma a field, so that no later proof
unfolds an update.
-/

namespace Sys2Proof.Machine

/-! ### `raise` -/

@[simp] theorem raise_status (e : CmdError) (s : State) :
    (raise e s).status = errorStatus e := rfl

@[simp] theorem raise_mod (e : CmdError) (s : State) :
    (raise e s).mod = s.mod := rfl

@[simp] theorem raise_sa (e : CmdError) (s : State) :
    (raise e s).sa = s.sa := rfl

@[simp] theorem raise_a (e : CmdError) (s : State) :
    (raise e s).a = s.a := rfl

@[simp] theorem raise_v (e : CmdError) (s : State) :
    (raise e s).v = s.v := rfl

@[simp] theorem raise_r (e : CmdError) (s : State) :
    (raise e s).r = s.r := rfl

@[simp] theorem raise_script (e : CmdError) (s : State) :
    (raise e s).script = s.script := rfl

@[simp] theorem raise_held (e : CmdError) (s : State) :
    (raise e s).held = s.held := rfl

@[simp] theorem raise_readLog (e : CmdError) (s : State) :
    (raise e s).readLog = s.readLog := rfl

@[simp] theorem raise_modulus (e : CmdError) (s : State) :
    (raise e s).modulus = s.modulus := rfl

@[simp] theorem raise_scalar (e : CmdError) (s : State) :
    (raise e s).scalar = s.scalar := rfl

@[simp] theorem raise_matrix (e : CmdError) (s : State) (d' : Dim) :
    (raise e s).matrix d' = s.matrix d' := rfl

@[simp] theorem raise_vector (e : CmdError) (s : State) (d' : Dim) :
    (raise e s).vector d' = s.vector d' := rfl

/-! ### `complete` -/

@[simp] theorem complete_status (s : State) :
    (complete s).status = okStatus := rfl

@[simp] theorem complete_mod (s : State) :
    (complete s).mod = s.mod := rfl

@[simp] theorem complete_sa (s : State) :
    (complete s).sa = s.sa := rfl

@[simp] theorem complete_a (s : State) :
    (complete s).a = s.a := rfl

@[simp] theorem complete_v (s : State) :
    (complete s).v = s.v := rfl

@[simp] theorem complete_r (s : State) :
    (complete s).r = s.r := rfl

@[simp] theorem complete_script (s : State) :
    (complete s).script = s.script := rfl

@[simp] theorem complete_held (s : State) :
    (complete s).held = s.held := rfl

@[simp] theorem complete_readLog (s : State) :
    (complete s).readLog = s.readLog := rfl

@[simp] theorem complete_modulus (s : State) :
    (complete s).modulus = s.modulus := rfl

@[simp] theorem complete_scalar (s : State) :
    (complete s).scalar = s.scalar := rfl

@[simp] theorem complete_matrix (s : State) (d' : Dim) :
    (complete s).matrix d' = s.matrix d' := rfl

@[simp] theorem complete_vector (s : State) (d' : Dim) :
    (complete s).vector d' = s.vector d' := rfl

/-! ### `writeScalar` -/

@[simp] theorem writeScalar_status (x : Nat) (s : State) :
    (writeScalar x s).status = s.status := rfl

@[simp] theorem writeScalar_mod (x : Nat) (s : State) :
    (writeScalar x s).mod = s.mod := rfl

@[simp] theorem writeScalar_sa (x : Nat) (s : State) :
    (writeScalar x s).sa = s.sa := rfl

@[simp] theorem writeScalar_a (x : Nat) (s : State) :
    (writeScalar x s).a = s.a := rfl

@[simp] theorem writeScalar_v (x : Nat) (s : State) :
    (writeScalar x s).v = s.v := rfl

@[simp] theorem writeScalar_r (x : Nat) (s : State) :
    (writeScalar x s).r = s.r.set 0 (zext32 x) := rfl

@[simp] theorem writeScalar_script (x : Nat) (s : State) :
    (writeScalar x s).script = s.script := rfl

@[simp] theorem writeScalar_held (x : Nat) (s : State) :
    (writeScalar x s).held = s.held := rfl

@[simp] theorem writeScalar_readLog (x : Nat) (s : State) :
    (writeScalar x s).readLog = s.readLog := rfl

@[simp] theorem writeScalar_modulus (x : Nat) (s : State) :
    (writeScalar x s).modulus = s.modulus := rfl

@[simp] theorem writeScalar_scalar (x : Nat) (s : State) :
    (writeScalar x s).scalar = s.scalar := rfl

@[simp] theorem writeScalar_matrix (x : Nat) (s : State) (d' : Dim) :
    (writeScalar x s).matrix d' = s.matrix d' := rfl

@[simp] theorem writeScalar_vector (x : Nat) (s : State) (d' : Dim) :
    (writeScalar x s).vector d' = s.vector d' := rfl

/-! ### `writeMatrix` -/

@[simp] theorem writeMatrix_status (d : Dim) (f : Fin d.n → Fin d.n → Nat) (s : State) :
    (writeMatrix d f s).status = s.status := rfl

@[simp] theorem writeMatrix_mod (d : Dim) (f : Fin d.n → Fin d.n → Nat) (s : State) :
    (writeMatrix d f s).mod = s.mod := rfl

@[simp] theorem writeMatrix_sa (d : Dim) (f : Fin d.n → Fin d.n → Nat) (s : State) :
    (writeMatrix d f s).sa = s.sa := rfl

@[simp] theorem writeMatrix_a (d : Dim) (f : Fin d.n → Fin d.n → Nat) (s : State) :
    (writeMatrix d f s).a = s.a := rfl

@[simp] theorem writeMatrix_v (d : Dim) (f : Fin d.n → Fin d.n → Nat) (s : State) :
    (writeMatrix d f s).v = s.v := rfl

@[simp] theorem writeMatrix_script (d : Dim) (f : Fin d.n → Fin d.n → Nat) (s : State) :
    (writeMatrix d f s).script = s.script := rfl

@[simp] theorem writeMatrix_held (d : Dim) (f : Fin d.n → Fin d.n → Nat) (s : State) :
    (writeMatrix d f s).held = s.held := rfl

@[simp] theorem writeMatrix_readLog (d : Dim) (f : Fin d.n → Fin d.n → Nat) (s : State) :
    (writeMatrix d f s).readLog = s.readLog := rfl

@[simp] theorem writeMatrix_modulus (d : Dim) (f : Fin d.n → Fin d.n → Nat) (s : State) :
    (writeMatrix d f s).modulus = s.modulus := rfl

@[simp] theorem writeMatrix_scalar (d : Dim) (f : Fin d.n → Fin d.n → Nat) (s : State) :
    (writeMatrix d f s).scalar = s.scalar := rfl

@[simp] theorem writeMatrix_matrix (d : Dim) (f : Fin d.n → Fin d.n → Nat) (s : State) (d' : Dim) :
    (writeMatrix d f s).matrix d' = s.matrix d' := rfl

@[simp] theorem writeMatrix_vector (d : Dim) (f : Fin d.n → Fin d.n → Nat) (s : State) (d' : Dim) :
    (writeMatrix d f s).vector d' = s.vector d' := rfl

/-! ### `writeVector` -/

@[simp] theorem writeVector_status (d : Dim) (f : Fin d.n → Nat) (s : State) :
    (writeVector d f s).status = s.status := rfl

@[simp] theorem writeVector_mod (d : Dim) (f : Fin d.n → Nat) (s : State) :
    (writeVector d f s).mod = s.mod := rfl

@[simp] theorem writeVector_sa (d : Dim) (f : Fin d.n → Nat) (s : State) :
    (writeVector d f s).sa = s.sa := rfl

@[simp] theorem writeVector_a (d : Dim) (f : Fin d.n → Nat) (s : State) :
    (writeVector d f s).a = s.a := rfl

@[simp] theorem writeVector_v (d : Dim) (f : Fin d.n → Nat) (s : State) :
    (writeVector d f s).v = s.v := rfl

@[simp] theorem writeVector_script (d : Dim) (f : Fin d.n → Nat) (s : State) :
    (writeVector d f s).script = s.script := rfl

@[simp] theorem writeVector_held (d : Dim) (f : Fin d.n → Nat) (s : State) :
    (writeVector d f s).held = s.held := rfl

@[simp] theorem writeVector_readLog (d : Dim) (f : Fin d.n → Nat) (s : State) :
    (writeVector d f s).readLog = s.readLog := rfl

@[simp] theorem writeVector_modulus (d : Dim) (f : Fin d.n → Nat) (s : State) :
    (writeVector d f s).modulus = s.modulus := rfl

@[simp] theorem writeVector_scalar (d : Dim) (f : Fin d.n → Nat) (s : State) :
    (writeVector d f s).scalar = s.scalar := rfl

@[simp] theorem writeVector_matrix (d : Dim) (f : Fin d.n → Nat) (s : State) (d' : Dim) :
    (writeVector d f s).matrix d' = s.matrix d' := rfl

@[simp] theorem writeVector_vector (d : Dim) (f : Fin d.n → Nat) (s : State) (d' : Dim) :
    (writeVector d f s).vector d' = s.vector d' := rfl

/-! ### `resetBlock` -/

@[simp] theorem resetBlock_status (s : State) :
    (resetBlock s).status = 0 := rfl

@[simp] theorem resetBlock_mod (s : State) :
    (resetBlock s).mod = Config.modReset := rfl

@[simp] theorem resetBlock_sa (s : State) :
    (resetBlock s).sa = 0 := rfl

@[simp] theorem resetBlock_a (s : State) :
    (resetBlock s).a = Vector.replicate 9 0 := rfl

@[simp] theorem resetBlock_v (s : State) :
    (resetBlock s).v = Vector.replicate 3 0 := rfl

@[simp] theorem resetBlock_r (s : State) :
    (resetBlock s).r = Vector.replicate 9 0 := rfl

@[simp] theorem resetBlock_script (s : State) :
    (resetBlock s).script = s.script := rfl

@[simp] theorem resetBlock_held (s : State) :
    (resetBlock s).held = none := rfl

@[simp] theorem resetBlock_readLog (s : State) :
    (resetBlock s).readLog = s.readLog := rfl

/-! ### `placeCommand` -/

@[simp] theorem placeCommand_status (w : Word) (s : State) :
    (placeCommand w s).status = s.status := rfl

@[simp] theorem placeCommand_mod (w : Word) (s : State) :
    (placeCommand w s).mod = s.mod := rfl

@[simp] theorem placeCommand_sa (w : Word) (s : State) :
    (placeCommand w s).sa = s.sa := rfl

@[simp] theorem placeCommand_a (w : Word) (s : State) :
    (placeCommand w s).a = s.a := rfl

@[simp] theorem placeCommand_v (w : Word) (s : State) :
    (placeCommand w s).v = s.v := rfl

@[simp] theorem placeCommand_r (w : Word) (s : State) :
    (placeCommand w s).r = s.r := rfl

@[simp] theorem placeCommand_script (w : Word) (s : State) :
    (placeCommand w s).script = .drive (writeSignals 0 w) true :: s.script := rfl

@[simp] theorem placeCommand_held (w : Word) (s : State) :
    (placeCommand w s).held = none := rfl

@[simp] theorem placeCommand_readLog (w : Word) (s : State) :
    (placeCommand w s).readLog = s.readLog := rfl

@[simp] theorem placeCommand_modulus (w : Word) (s : State) :
    (placeCommand w s).modulus = s.modulus := rfl

@[simp] theorem placeCommand_scalar (w : Word) (s : State) :
    (placeCommand w s).scalar = s.scalar := rfl

@[simp] theorem placeCommand_matrix (w : Word) (s : State) (d' : Dim) :
    (placeCommand w s).matrix d' = s.matrix d' := rfl

@[simp] theorem placeCommand_vector (w : Word) (s : State) (d' : Dim) :
    (placeCommand w s).vector d' = s.vector d' := rfl

/-! ### `loadProgram` -/

@[simp] theorem loadProgram_status (prog : List AsmLine) (s : State) :
    (loadProgram prog s).status = s.status := rfl

@[simp] theorem loadProgram_mod (prog : List AsmLine) (s : State) :
    (loadProgram prog s).mod = s.mod := rfl

@[simp] theorem loadProgram_sa (prog : List AsmLine) (s : State) :
    (loadProgram prog s).sa = s.sa := rfl

@[simp] theorem loadProgram_a (prog : List AsmLine) (s : State) :
    (loadProgram prog s).a = s.a := rfl

@[simp] theorem loadProgram_v (prog : List AsmLine) (s : State) :
    (loadProgram prog s).v = s.v := rfl

@[simp] theorem loadProgram_r (prog : List AsmLine) (s : State) :
    (loadProgram prog s).r = s.r := rfl

@[simp] theorem loadProgram_script (prog : List AsmLine) (s : State) :
    (loadProgram prog s).script = assemble prog := rfl

@[simp] theorem loadProgram_held (prog : List AsmLine) (s : State) :
    (loadProgram prog s).held = s.held := rfl

@[simp] theorem loadProgram_readLog (prog : List AsmLine) (s : State) :
    (loadProgram prog s).readLog = s.readLog := rfl

@[simp] theorem loadProgram_modulus (prog : List AsmLine) (s : State) :
    (loadProgram prog s).modulus = s.modulus := rfl

@[simp] theorem loadProgram_scalar (prog : List AsmLine) (s : State) :
    (loadProgram prog s).scalar = s.scalar := rfl

@[simp] theorem loadProgram_matrix (prog : List AsmLine) (s : State) (d' : Dim) :
    (loadProgram prog s).matrix d' = s.matrix d' := rfl

@[simp] theorem loadProgram_vector (prog : List AsmLine) (s : State) (d' : Dim) :
    (loadProgram prog s).vector d' = s.vector d' := rfl

end Sys2Proof.Machine
end

