-- ==== Sys2Proof/Laws/Operands.lean ====
section
/-!
SUPPORT. The laws of the numeric primitives (spec/00_scope.md R6 to R8), of the layout of matrices
(spec/10_state.md R22, R27) and of the search for a scalar inverse (spec/41_modular_inverse_scalar.md).
-/

namespace Sys2Proof.Machine

/-! ## Residues -/

/-- `red` is the mathematical residue (R7). -/
theorem red_cast (v : Int) {m : Nat} (hm : m ≠ 0) : (red v m : Int) = v % (m : Int) :=
  Int.toNat_of_nonneg (Int.emod_nonneg _ (by exact_mod_cast hm))

/-- A residue lies in 0..m-1 (R7). -/
theorem red_lt (v : Int) {m : Nat} (hm : m ≠ 0) : red v m < m := by
  have h := Int.emod_lt_of_pos v (show (0 : Int) < m by omega)
  have := red_cast v hm
  omega

/-- Two integers have one residue exactly when m divides their difference (R7). -/
theorem red_eq_red_iff (v w : Int) {m : Nat} (hm : m ≠ 0) :
    red v m = red w m ↔ v ≡ w [ZMOD m] := by
  rw [← Int.ofNat_inj]
  simp only [red_cast _ hm]
  rfl

/-- A residue is congruent to what it reduces (R7). -/
theorem red_modEq (v : Int) {m : Nat} (hm : m ≠ 0) : (red v m : Int) ≡ v [ZMOD m] := by
  rw [red_cast _ hm]
  exact Int.mod_modEq v m

/-- Reducing early changes no residue (R8). -/
theorem red_mul_red (x v : Int) {m : Nat} (hm : m ≠ 0) : red (x * (red v m : Int)) m = red (x * v) m :=
  (red_eq_red_iff _ _ hm).2 (Int.ModEq.mul_left x (red_modEq v hm))

/-- A residue below 2^32 survives its register (R8). -/
theorem zext32_toNat {v : Nat} (h : v < 2 ^ 32) : (zext32 v).toNat = v := by
  simp only [zext32, BitVec.toNat_ofNat]
  exact Nat.mod_eq_of_lt h

/-! ## The modulus -/

/-- m is the lower half of MOD (R32). -/
theorem modulus_eq (s : State) : s.modulus = s.mod.toNat % 65536 := by
  simp [State.modulus, BitVec.extractLsb'_toNat]

/-- m is at most 65535 (R26). -/
theorem modulus_lt (s : State) : s.modulus < 65536 := by
  rw [modulus_eq]
  omega

/-- Every residue modulo m fits a register without its upper half (R26). -/
theorem zext32_red_toNat (v : Int) (s : State) (hm : s.modulus ≠ 0) :
    (zext32 (red v s.modulus)).toNat = red v s.modulus :=
  zext32_toNat (by have := red_lt v hm; have := modulus_lt s; omega)

/-! ## Layout -/

/-- The register of entry (i, j) (R22, R27). -/
theorem cell_val (d : Dim) (i j : Fin d.n) : (cell d i j).val = 3 * i.val + j.val := rfl

/-- A register number gives back its row (R27). -/
theorem cell_div (d : Dim) (i j : Fin d.n) : (cell d i j).val / Config.stride = i.val := by
  have := d.n_le
  have := j.isLt
  show (3 * i.val + j.val) / 3 = i.val
  omega

/-- A register number gives back its column (R27). -/
theorem cell_mod (d : Dim) (i j : Fin d.n) : (cell d i j).val % Config.stride = j.val := by
  have := d.n_le
  have := j.isLt
  show (3 * i.val + j.val) % 3 = j.val
  omega

/-- Which N fields name which dimension (R73). -/
theorem dimOfField_eq_some (n : BitVec 4) (d : Dim) : dimOfField n = some d ↔ n.toNat = d.n := by
  revert n
  cases d <;> decide

/-- The N fields that are UnsupportedSize (R73, R155). -/
theorem dimOfField_eq_none (n : BitVec 4) :
    dimOfField n = none ↔ n.toNat ≠ 1 ∧ n.toNat ≠ 2 ∧ n.toNat ≠ 3 := by
  revert n
  decide

/-! ## The scalar inverse -/

/-- Two solutions of the congruence below m are equal (R101). -/
theorem inverse_unique {a : Int} {m x y : Nat} (hx : x < m) (hy : y < m)
    (ex : red (a * x) m = 1) (ey : red (a * y) m = 1) : x = y := by
  have hm : m ≠ 0 := by omega
  have ex' : a * x ≡ 1 [ZMOD m] := by
    have := red_modEq (a * x) hm
    rw [ex] at this
    exact_mod_cast this.symm
  have ey' : a * y ≡ 1 [ZMOD m] := by
    have := red_modEq (a * y) hm
    rw [ey] at this
    exact_mod_cast this.symm
  have h : (x : Int) ≡ y [ZMOD m] :=
    calc (x : Int) = x * 1 := (mul_one _).symm
      _ ≡ x * (a * y) [ZMOD m] := Int.ModEq.mul_left _ ey'.symm
      _ = y * (a * x) := by ring
      _ ≡ y * 1 [ZMOD m] := Int.ModEq.mul_left _ ex'
      _ = y := mul_one _
  have h' : x ≡ y [MOD m] := (Int.natCast_modEq_iff).1 h
  exact Nat.ModEq.eq_of_lt_of_lt h' hx hy

/-- What the search answers: the one solution in 1..m-1 (R100, R101). -/
theorem minv_eq_some {a : Int} {m x : Nat} :
    minv a m = some x ↔ 1 ≤ x ∧ x < m ∧ red (a * x) m = 1 := by
  constructor
  · intro h
    have hp := List.find?_some h
    have hmem := List.mem_of_find?_eq_some h
    rw [List.mem_range'_1] at hmem
    exact ⟨hmem.1, by omega, by simpa using hp⟩
  · rintro ⟨h1, h2, h3⟩
    cases hs : minv a m with
    | none =>
      have := (List.find?_eq_none.1 hs) x (by rw [List.mem_range'_1]; omega)
      simp [h3] at this
    | some y =>
      have hp := List.find?_some hs
      have hmem := List.mem_of_find?_eq_some hs
      rw [List.mem_range'_1] at hmem
      rw [inverse_unique (a := a) (x := y) (y := x) (by omega) h2 (by simpa using hp) h3]

/-- When the search finds nothing (R100, R103). -/
theorem minv_eq_none {a : Int} {m : Nat} :
    minv a m = none ↔ ∀ x : Nat, 1 ≤ x → x < m → red (a * x) m ≠ 1 := by
  constructor
  · intro h x h1 h2 h3
    rw [minv_eq_some.2 ⟨h1, h2, h3⟩] at h
    cases h
  · intro h
    cases hs : minv a m with
    | none => rfl
    | some x => exact absurd (minv_eq_some.1 hs).2.2 (h x (minv_eq_some.1 hs).1 (minv_eq_some.1 hs).2.1)

end Sys2Proof.Machine
end

