-- ==== Sys2Proof/Laws/Ops.lean ====
section
/-!
SUPPORT. What each shared operation on the registers can do, said once: the port's reads and writes, the
writes of results, and how a command ends.
-/

namespace Sys2Proof.Machine

/-! ## The nine registers -/

@[simp] theorem nineOf_get (f : Fin 9 → Word) (k : Fin 9) : (nineOf f).get k = f k := by
  match k with
  | 0 | 1 | 2 | 3 | 4 | 5 | 6 | 7 | 8 => rfl

/-- Two register files with the same nine registers are equal. -/
theorem nine_ext {x y : Vector Word 9} (h : ∀ k : Fin 9, x.get k = y.get k) : x = y :=
  Vector.ext fun i hi => h ⟨i, hi⟩

/-- A scalar result is R0 (R27). -/
theorem writeScalar_zero (x : Nat) (s : State) : (writeScalar x s).r.get 0 = zext32 x := by
  simp [Vector.get_eq_getElem]

/-- A scalar result leaves R1 to R8 (R27). -/
theorem writeScalar_other (x : Nat) (s : State) {k : Fin 9} (hk : k ≠ 0) :
    (writeScalar x s).r.get k = s.r.get k := by
  have : (0 : Nat) ≠ k.val := fun h => hk (Fin.ext h.symm)
  simp [Vector.get_eq_getElem, Vector.getElem_set_ne, this]

/-- A matrix result stands at R[3·i + j] (R27). -/
theorem writeMatrix_cell (d : Dim) (f : Fin d.n → Fin d.n → Nat) (s : State) (i j : Fin d.n) :
    (writeMatrix d f s).r.get (cell d i j) = zext32 (f i j) := by
  simp [writeMatrix, cell_div, cell_mod]

/-- A matrix result leaves the R registers outside the n by n part (R27). -/
theorem writeMatrix_other (d : Dim) (f : Fin d.n → Fin d.n → Nat) (s : State) {k : Fin 9}
    (hk : ¬(k.val / 3 < d.n ∧ k.val % 3 < d.n)) : (writeMatrix d f s).r.get k = s.r.get k := by
  simp only [writeMatrix, nineOf_get]
  exact dif_neg hk

/-- A vector result stands at R[i] (R27). -/
theorem writeVector_component (d : Dim) (f : Fin d.n → Nat) (s : State) (i : Fin d.n) {k : Fin 9}
    (hk : k.val = i.val) : (writeVector d f s).r.get k = zext32 (f i) := by
  have h : k.val < d.n := by omega
  simp only [writeVector, nineOf_get, h, dif_pos]
  congr 1
  exact congrArg f (Fin.ext hk)

/-- A vector result leaves R[n] to R8 (R27). -/
theorem writeVector_other (d : Dim) (f : Fin d.n → Nat) (s : State) {k : Fin 9} (hk : d.n ≤ k.val) :
    (writeVector d f s).r.get k = s.r.get k := by
  simp only [writeVector, nineOf_get]
  exact dif_neg (by omega)

/-! ## How a command ends -/

@[simp] theorem errorStatus_eq (e : CmdError) : errorStatus e = (errorCode e).setWidth 32 := by
  cases e <;> decide

@[simp] theorem okStatus_eq : okStatus = 0x00000010 := by decide

@[simp] theorem finish_ok (s t : State) : finish s (.ok t) = complete t := rfl

@[simp] theorem finish_error (s : State) (e : CmdError) : finish s (.error e) = raise e s := rfl

/-- With MOD[15:0] = 0 a command ends with BadModulus (R154). -/
theorem withModulus_zero (s : State) (body : Nat → Except CmdError State) (h : s.modulus = 0) :
    withModulus s body = raise .badModulus s := by
  simp [withModulus, h]

/-- With a modulus a command does its work (R74). -/
theorem withModulus_pos (s : State) (body : Nat → Except CmdError State) (h : s.modulus ≠ 0) :
    withModulus s body = finish s (body s.modulus) := by
  simp [withModulus, h]

/-- With a modulus and N outside 1, 2, 3 a sized command ends with UnsupportedSize (R155). -/
theorem withSize_none (n : BitVec 4) (s : State) (body : Dim → Nat → Except CmdError State)
    (h : s.modulus ≠ 0) (hn : dimOfField n = none) :
    withSize n s body = raise .unsupportedSize s := by
  simp [withSize, withModulus_pos, h, hn]

/-- With a modulus and a legal N a sized command does its work (R74). -/
theorem withSize_some (n : BitVec 4) (s : State) (body : Dim → Nat → Except CmdError State) (d : Dim)
    (h : s.modulus ≠ 0) (hn : dimOfField n = some d) :
    withSize n s body = finish s (body d s.modulus) := by
  simp [withSize, withModulus_pos, h, hn]

/-- Everything the common checks can do: BadModulus, an error of the body recorded on the state as it was,
or the body's own state completed (R12, R74, R159). -/
theorem withModulus_cases (s : State) (body : Nat → Except CmdError State) :
    (s.modulus = 0 ∧ withModulus s body = raise .badModulus s) ∨
    (s.modulus ≠ 0 ∧ ∃ e, body s.modulus = .error e ∧ withModulus s body = raise e s) ∨
    (s.modulus ≠ 0 ∧ ∃ t, body s.modulus = .ok t ∧ withModulus s body = complete t) := by
  by_cases h : s.modulus = 0
  · exact .inl ⟨h, withModulus_zero s body h⟩
  · rw [withModulus_pos s body h]
    cases hb : body s.modulus with
    | error e => exact .inr (.inl ⟨h, e, rfl, rfl⟩)
    | ok t => exact .inr (.inr ⟨h, t, rfl, rfl⟩)

/-- The same for a sized command, with UnsupportedSize after BadModulus (R74, R155). -/
theorem withSize_cases (n : BitVec 4) (s : State) (body : Dim → Nat → Except CmdError State) :
    (s.modulus = 0 ∧ withSize n s body = raise .badModulus s) ∨
    (s.modulus ≠ 0 ∧ dimOfField n = none ∧ withSize n s body = raise .unsupportedSize s) ∨
    (s.modulus ≠ 0 ∧ ∃ d, dimOfField n = some d ∧
      ((∃ e, body d s.modulus = .error e ∧ withSize n s body = raise e s) ∨
       (∃ t, body d s.modulus = .ok t ∧ withSize n s body = complete t))) := by
  by_cases h : s.modulus = 0
  · exact .inl ⟨h, withModulus_zero s _ h⟩
  cases hd : dimOfField n with
  | none => exact .inr (.inl ⟨h, rfl, withSize_none n s body h hd⟩)
  | some d =>
    rw [withSize_some n s body d h hd]
    cases hb : body d s.modulus with
    | error e => exact .inr (.inr ⟨h, d, rfl, .inl ⟨e, hb, rfl⟩⟩)
    | ok t => exact .inr (.inr ⟨h, d, rfl, .inr ⟨t, hb, rfl⟩⟩)

/-! ## The port's reads and writes -/

/-- Everything a plain write can do: one of the operand registers or MOD changes, or nothing (R53). -/
theorem storeRegister_cases (idx : WordIndex) (w : Word) (s : State) :
    (idx.toNat = 2 ∧ storeRegister idx w s = { s with mod := modVisible w }) ∨
    (idx.toNat = 3 ∧ storeRegister idx w s = { s with sa := w }) ∨
    (∃ k : Fin 9, idx.toNat = 4 + k.val ∧ storeRegister idx w s = { s with a := s.a.set k.val w }) ∨
    (∃ k : Fin 3, idx.toNat = 13 + k.val ∧ storeRegister idx w s = { s with v := s.v.set k.val w }) ∨
    ((idx.toNat < 2 ∨ 16 ≤ idx.toNat) ∧ storeRegister idx w s = s) := by
  unfold storeRegister
  by_cases h2 : idx.toNat = 2
  · exact .inl ⟨h2, by simp [h2]⟩
  by_cases h3 : idx.toNat = 3
  · exact .inr (.inl ⟨h3, by simp [h3]⟩)
  by_cases h4 : 4 ≤ idx.toNat ∧ idx.toNat ≤ 12
  · exact .inr (.inr (.inl ⟨⟨idx.toNat - 4, by omega⟩, by simp; omega, by simp [h2, h3, h4]⟩))
  by_cases h5 : 13 ≤ idx.toNat ∧ idx.toNat ≤ 15
  · exact .inr (.inr (.inr (.inl
      ⟨⟨idx.toNat - 13, by omega⟩, by simp; omega, by simp [h2, h3, h4, h5]⟩)))
  · exact .inr (.inr (.inr (.inr ⟨by omega, by simp [h2, h3, h4, h5]⟩)))

/-- A read of an A register (R52). -/
theorem regRead_a (idx : WordIndex) (s : State) (k : Fin 9) (h : idx.toNat = 4 + k.val) :
    regRead idx s = s.a.get k := by
  have hk : (⟨idx.toNat - 4, by omega⟩ : Fin 9) = k := Fin.ext (by simp; omega)
  have h' : 4 ≤ idx.toNat ∧ idx.toNat ≤ 12 := by omega
  simp only [regRead, h']
  rw [if_neg (by omega), if_neg (by omega), if_neg (by omega), if_neg (by omega)]
  simp [hk]

/-- A read of a V register (R52). -/
theorem regRead_v (idx : WordIndex) (s : State) (k : Fin 3) (h : idx.toNat = 13 + k.val) :
    regRead idx s = s.v.get k := by
  have hk : (⟨idx.toNat - 13, by omega⟩ : Fin 3) = k := Fin.ext (by simp; omega)
  have h' : 13 ≤ idx.toNat ∧ idx.toNat ≤ 15 := by omega
  have h'' : ¬(4 ≤ idx.toNat ∧ idx.toNat ≤ 12) := by omega
  simp only [regRead, h', h'']
  rw [if_neg (by omega), if_neg (by omega), if_neg (by omega), if_neg (by omega)]
  simp [hk]

/-- A read of an R register (R52). -/
theorem regRead_r (idx : WordIndex) (s : State) (k : Fin 9) (h : idx.toNat = 16 + k.val) :
    regRead idx s = s.r.get k := by
  have hk : (⟨idx.toNat - 16, by omega⟩ : Fin 9) = k := Fin.ext (by simp; omega)
  have h' : 16 ≤ idx.toNat ∧ idx.toNat ≤ 24 := by omega
  have h4 : ¬(4 ≤ idx.toNat ∧ idx.toNat ≤ 12) := by omega
  have h5 : ¬(13 ≤ idx.toNat ∧ idx.toNat ≤ 15) := by omega
  simp only [regRead, h', h4, h5]
  rw [if_neg (by omega), if_neg (by omega), if_neg (by omega), if_neg (by omega)]
  simp [hk]

/-- A read sees the block's registers only (R52). -/
theorem regRead_congr (idx : WordIndex) {s t : State} (hs : s.status = t.status) (hm : s.mod = t.mod)
    (ha : s.sa = t.sa) (hA : s.a = t.a) (hv : s.v = t.v) (hr : s.r = t.r) :
    regRead idx s = regRead idx t := by
  simp [regRead, hs, hm, ha, hA, hv, hr]

end Sys2Proof.Machine
end

