-- ==== Sys2Proof/Laws/Exec.lean ====
section
/-!
SUPPORT. What the five commands can do, said once per command: each always answers a next state, which
is an error recorded on the state as it was, with the condition under which it is that error, or a result
written and completed.
-/

namespace Sys2Proof.Machine

/-- DET's outcomes (R90). -/
theorem execDet_cases (n : BitVec 4) (s : State) :
    (s.modulus = 0 ∧ execDet n s = .next (raise .badModulus s)) ∨
    (s.modulus ≠ 0 ∧ dimOfField n = none ∧ execDet n s = .next (raise .unsupportedSize s)) ∨
    (s.modulus ≠ 0 ∧ ∃ d, dimOfField n = some d ∧ execDet n s = .next (complete
      (writeScalar (red (determinant d (s.matrix d)) s.modulus) s))) := by
  obtain ⟨hm, h⟩ | ⟨hm, hd, h⟩ | ⟨hm, d, hd, h⟩ := withSize_cases n s fun d m =>
    .ok (writeScalar (red (determinant d (s.matrix d)) m) s)
  · exact .inl ⟨hm, congrArg _ h⟩
  · exact .inr (.inl ⟨hm, hd, congrArg _ h⟩)
  · obtain ⟨e, hb, h⟩ | ⟨t, hb, h⟩ := h
    · cases hb
    · cases hb
      exact .inr (.inr ⟨hm, d, hd, congrArg _ h⟩)

/-- MODINV's outcomes (R100). -/
theorem execModinv_cases (s : State) :
    (s.modulus = 0 ∧ execModinv s = .next (raise .badModulus s)) ∨
    (s.modulus ≠ 0 ∧ minv s.scalar s.modulus = none ∧ execModinv s = .next (raise .noInverse s)) ∨
    (s.modulus ≠ 0 ∧ ∃ x, minv s.scalar s.modulus = some x ∧
      execModinv s = .next (complete (writeScalar x s))) := by
  by_cases hm : s.modulus = 0
  · exact .inl ⟨hm, congrArg _ (withModulus_zero s _ hm)⟩
  · cases hx : minv s.scalar s.modulus with
    | none =>
      refine .inr (.inl ⟨hm, rfl, ?_⟩)
      unfold execModinv
      rw [withModulus_pos s _ hm]
      simp [hx]
    | some x =>
      refine .inr (.inr ⟨hm, x, rfl, ?_⟩)
      unfold execModinv
      rw [withModulus_pos s _ hm]
      simp [hx]

/-- ADJ's outcomes (R110). -/
theorem execAdj_cases (n : BitVec 4) (s : State) :
    (s.modulus = 0 ∧ execAdj n s = .next (raise .badModulus s)) ∨
    (s.modulus ≠ 0 ∧ dimOfField n = none ∧ execAdj n s = .next (raise .unsupportedSize s)) ∨
    (s.modulus ≠ 0 ∧ ∃ d, dimOfField n = some d ∧ execAdj n s = .next (complete
      (writeMatrix d (fun i j => red (adjugate d (s.matrix d) i j) s.modulus) s))) := by
  obtain ⟨hm, h⟩ | ⟨hm, hd, h⟩ | ⟨hm, d, hd, h⟩ := withSize_cases n s fun d m =>
    .ok (writeMatrix d (fun i j => red (adjugate d (s.matrix d) i j) m) s)
  · exact .inl ⟨hm, congrArg _ h⟩
  · exact .inr (.inl ⟨hm, hd, congrArg _ h⟩)
  · obtain ⟨e, hb, h⟩ | ⟨t, hb, h⟩ := h
    · cases hb
    · cases hb
      exact .inr (.inr ⟨hm, d, hd, congrArg _ h⟩)

/-- MATINV's outcomes (R120, R122). -/
theorem execMatinv_cases (n : BitVec 4) (s : State) :
    (s.modulus = 0 ∧ execMatinv n s = .next (raise .badModulus s)) ∨
    (s.modulus ≠ 0 ∧ dimOfField n = none ∧ execMatinv n s = .next (raise .unsupportedSize s)) ∨
    (s.modulus ≠ 0 ∧ ∃ d, dimOfField n = some d ∧
      ((red (determinant d (s.matrix d)) s.modulus = 0 ∧
        execMatinv n s = .next (raise .singularMatrix s)) ∨
       (red (determinant d (s.matrix d)) s.modulus ≠ 0 ∧
        minv (red (determinant d (s.matrix d)) s.modulus) s.modulus = none ∧
        execMatinv n s = .next (raise .noInverse s)) ∨
       (red (determinant d (s.matrix d)) s.modulus ≠ 0 ∧
        ∃ x, minv (red (determinant d (s.matrix d)) s.modulus) s.modulus = some x ∧
        execMatinv n s = .next (complete
          (writeMatrix d (scaledAdjugate d (s.matrix d) x s.modulus) s))))) := by
  by_cases hm : s.modulus = 0
  · exact .inl ⟨hm, congrArg _ (withModulus_zero s _ hm)⟩
  cases hd : dimOfField n with
  | none => exact .inr (.inl ⟨hm, rfl, congrArg _ (withSize_none n s _ hm hd)⟩)
  | some d =>
    refine .inr (.inr ⟨hm, d, rfl, ?_⟩)
    unfold execMatinv
    rw [withSize_some n s _ d hm hd]
    by_cases h0 : red (determinant d (s.matrix d)) s.modulus = 0
    · exact .inl ⟨h0, by simp [h0]⟩
    · cases hx : minv (red (determinant d (s.matrix d)) s.modulus) s.modulus with
      | none => exact .inr (.inl ⟨h0, rfl, by simp [h0]⟩)
      | some x => exact .inr (.inr ⟨h0, x, rfl, by simp [h0]⟩)

/-- MATVEC's outcomes (R130). -/
theorem execMatvec_cases (n : BitVec 4) (s : State) :
    (s.modulus = 0 ∧ execMatvec n s = .next (raise .badModulus s)) ∨
    (s.modulus ≠ 0 ∧ dimOfField n = none ∧ execMatvec n s = .next (raise .unsupportedSize s)) ∨
    (s.modulus ≠ 0 ∧ ∃ d, dimOfField n = some d ∧ execMatvec n s = .next (complete
      (writeVector d (fun i => red (product d (s.matrix d) (s.vector d) i) s.modulus) s))) := by
  obtain ⟨hm, h⟩ | ⟨hm, hd, h⟩ | ⟨hm, d, hd, h⟩ := withSize_cases n s fun d m =>
    .ok (writeVector d (fun i => red (product d (s.matrix d) (s.vector d) i) m) s)
  · exact .inl ⟨hm, congrArg _ h⟩
  · exact .inr (.inl ⟨hm, hd, congrArg _ h⟩)
  · obtain ⟨e, hb, h⟩ | ⟨t, hb, h⟩ := h
    · cases hb
    · cases hb
      exact .inr (.inr ⟨hm, d, hd, congrArg _ h⟩)

end Sys2Proof.Machine
end

