-- ==== Sys2Proof/WellFormed.lean ====
section
/-!
DEFINITION. Well-formedness, as Booleans. An instruction has one operand, the 4-bit field N, whose type
holds exactly the values the encoding admits (spec/30_encoding.md R71, R73), so every instruction is well
formed. The lines of a host program (R79, R80) have operands that can be out of range, and these are
checked. DEDUCED (log entry 6): the spec writes the ranges as forms, not as checks.
-/

namespace Sys2Proof

/-- Every term of `Instr` is a command of the set: N takes all its sixteen values (R71, R73). -/
def Instr.wellFormed : Instr → Bool
  | .det _ => true
  | .modinv => true
  | .adj _ => true
  | .matinv _ => true
  | .matvec _ => true

namespace Machine

/-- A number an operand register can be written with: signed, or unsigned in hexadecimal (R79). -/
def isOperandValue (x : Int) : Bool := decide (-(2 ^ 31) ≤ x ∧ x < 2 ^ 32)

/-- A number any other register can be written with (R79: negative only for operand registers). -/
def isWordValue (x : Int) : Bool := decide (0 ≤ x ∧ x < 2 ^ 32)

/-- The operand registers (R22 to R24). -/
def RegName.isOperand : RegName → Bool
  | .sa => true
  | .a _ => true
  | .v _ => true
  | .cmd => false
  | .status => false
  | .mod => false
  | .r _ => false
  | .reserved _ => false

/-- A dimension for which there are registers (R22, R23, R27). -/
def isSize (n : Nat) : Bool := decide (1 ≤ n ∧ n ≤ 3)

/-- A line the notation admits: numbers in range, sizes 1 to 3 for the pseudo-instructions, n rows of n
entries, n components (R79, R80). A command is written with any n of 0..15 (R79). -/
def AsmLine.wellFormed : AsmLine → Bool
  | .wr reg value => if reg.isOperand then isOperandValue value else isWordValue value
  | .rd _ => true
  | .command i => i.wellFormed
  | .setmod m => isWordValue m
  | .lda n rows =>
    isSize n && rows.length == n && rows.all fun row => row.length == n && row.all isOperandValue
  | .ldv n comps => isSize n && comps.length == n && comps.all isOperandValue
  | .ldsa a => isOperandValue a
  | .rdr n => isSize n
  | .rdv n => isSize n
  | .movra n => isSize n
  | .chk => true

end Machine

end Sys2Proof
end

