-- ==== Sys2Proof/Laws/PerInstr.lean ====
section
/-!
SUPPORT. Statements about every instruction as syntax, one lemma per constructor.
-/

namespace Sys2Proof.Laws

/-- The encoded word of an instruction lies in its own row of the opcode map: `(w & mask) == match`
(spec/30_encoding.md R72), and the instruction is well formed. -/
def TableWord.Statement (i : Instr) : Prop :=
  i.wellFormed = true ∧
    ∃ row ∈ opcodeMap, row.mnemonic = mnemonicOf i ∧ encode i &&& row.mask = row.pattern

theorem TableWord.det (n : BitVec 4) : TableWord.Statement (.det n) := by
  revert n
  unfold TableWord.Statement
  decide

theorem TableWord.modinv : TableWord.Statement .modinv := by
  unfold TableWord.Statement
  decide

theorem TableWord.adj (n : BitVec 4) : TableWord.Statement (.adj n) := by
  revert n
  unfold TableWord.Statement
  decide

theorem TableWord.matinv (n : BitVec 4) : TableWord.Statement (.matinv n) := by
  revert n
  unfold TableWord.Statement
  decide

theorem TableWord.matvec (n : BitVec 4) : TableWord.Statement (.matvec n) := by
  revert n
  unfold TableWord.Statement
  decide

end Sys2Proof.Laws
end

