-- ==== Sys2Proof/Laws/Port.lean ====
section
/-!
SUPPORT. What one rising edge of the port can do, said once per case (spec/20_memory.md R51;
spec/70_reset_and_hazards.md R180, R181), and how a step reaches it.
-/

namespace Sys2Proof.Machine

@[simp] theorem request_readSignals (idx : WordIndex) :
    (readSignals idx).request = some (.read idx) := rfl

@[simp] theorem request_writeSignals (idx : WordIndex) (w : Word) :
    (writeSignals idx w).request = some (.write idx w) := rfl

@[simp] theorem request_idleSignals : idleSignals.request = none := rfl

/-- With `rst` = 1 the edge is a reset, whatever else is driven (R180, R181). -/
theorem clockEdge_rst (p : PortIn) (done : Bool) (s : State) (h : p.rst = true) :
    clockEdge p done s = .next (resetBlock s) := by
  simp [clockEdge, h]

/-- A request held and then changed or dropped is refused (V2). -/
theorem clockEdge_violation (p : PortIn) (done : Bool) (s : State) (h : p.rst = false)
    (h1 : s.held ≠ none) (h2 : s.held ≠ p.request) :
    clockEdge p done s = .refused .portProtocol := by
  simp [clockEdge, h, h1, h2]

/-- Without a request nothing changes (R51). -/
theorem clockEdge_idle (p : PortIn) (done : Bool) (s : State) (h : p.rst = false)
    (hr : p.request = none) (hh : s.held = none) : clockEdge p done s = .next s := by
  simp [clockEdge, h, hr, hh]

/-- A request the block is not done with is held (R51). -/
theorem clockEdge_wait (p : PortIn) (s : State) (t : Transaction) (h : p.rst = false)
    (hr : p.request = some t) (hh : s.held = none ∨ s.held = some t) :
    clockEdge p false s = .next { s with held := some t } := by
  obtain hh | hh := hh <;> simp [clockEdge, h, hr, hh]

/-- A request the block is done with completes (R51). -/
theorem clockEdge_done (p : PortIn) (s : State) (t : Transaction) (h : p.rst = false)
    (hr : p.request = some t) (hh : s.held = none ∨ s.held = some t) :
    clockEdge p true s = transact t { s with held := none } := by
  obtain hh | hh := hh <;> simp [clockEdge, h, hr, hh]

/-- Everything an edge can do. -/
theorem clockEdge_cases (p : PortIn) (done : Bool) (s : State) :
    (p.rst = true ∧ clockEdge p done s = .next (resetBlock s)) ∨
    (p.rst = false ∧ s.held ≠ none ∧ s.held ≠ p.request ∧
      clockEdge p done s = .refused .portProtocol) ∨
    (p.rst = false ∧ p.request = none ∧ s.held = none ∧ clockEdge p done s = .next s) ∨
    (∃ t, p.rst = false ∧ p.request = some t ∧ (s.held = none ∨ s.held = some t) ∧ done = false ∧
      clockEdge p done s = .next { s with held := some t }) ∨
    (∃ t, p.rst = false ∧ p.request = some t ∧ (s.held = none ∨ s.held = some t) ∧ done = true ∧
      clockEdge p done s = transact t { s with held := none }) := by
  cases hp : p.rst with
  | true => exact .inl ⟨rfl, clockEdge_rst p done s hp⟩
  | false =>
    by_cases hv : s.held ≠ none ∧ s.held ≠ p.request
    · exact .inr (.inl ⟨rfl, hv.1, hv.2, clockEdge_violation p done s hp hv.1 hv.2⟩)
    · have hh : s.held = none ∨ s.held = p.request := by
        by_contra h
        exact hv ⟨fun x => h (.inl x), fun x => h (.inr x)⟩
      cases hr : p.request with
      | none =>
        have hn : s.held = none := by
          rw [hr] at hh
          exact hh.elim id id
        exact .inr (.inr (.inl ⟨rfl, rfl, hn, clockEdge_idle p done s hp hr hn⟩))
      | some t =>
        rw [hr] at hh
        cases done with
        | false => exact .inr (.inr (.inr (.inl ⟨t, rfl, rfl, hh, rfl, clockEdge_wait p s t hp hr hh⟩)))
        | true => exact .inr (.inr (.inr (.inr ⟨t, rfl, rfl, hh, rfl, clockEdge_done p s t hp hr hh⟩)))

/-- A step with nothing left to do changes nothing (R13). -/
theorem step_nil (s : State) (h : s.script = []) : step s = .next s := by
  simp [step, portStep, h]

/-- A step does the next cycle of the script. -/
theorem step_cons (s : State) (c : HostAction) (rest : List HostAction) (h : s.script = c :: rest) :
    step s = hostCycle c { s with script := rest } := by
  simp [step, portStep, h]

@[simp] theorem andThen_next (s : State) (f : State → State) :
    andThen (.next s) f = .next (f s) := rfl

@[simp] theorem andThen_refused (e : Refusal) (f : State → State) :
    andThen (.refused e) f = .refused e := rfl

/-- A completed read in the block: only the log grows (R52). -/
@[simp] theorem transact_read (idx : WordIndex) (s : State) :
    transact (.read idx) s = .next { s with readLog := s.readLog ++ [regRead idx s] } := rfl

/-- A completed write is `RegWrite` (R53). -/
@[simp] theorem transact_write (idx : WordIndex) (w : Word) (s : State) :
    transact (.write idx w) s = regWrite idx w s := rfl

/-- A write to CMD of a word that encodes a command runs it (R31, R74). -/
theorem runCommand_ok (w : Word) (s : State) (i : Instr) (h : decode w = .ok i) :
    runCommand w s = exec i s := by
  simp [runCommand, h]

/-- A write to CMD of any other word ends with IllegalCommand (R75). -/
theorem runCommand_error (w : Word) (s : State) (e : DecodeError) (h : decode w = .error e) :
    runCommand w s = .next (raise .illegalCommand s) := by
  simp [runCommand, h]

/-- A write to CMD runs the word (R53). -/
theorem regWrite_command (w : Word) (s : State) : regWrite 0 w s = runCommand w s := if_pos rfl

/-- A write to any other index is a plain write (R53). -/
theorem regWrite_store (idx : WordIndex) (w : Word) (s : State) (h : idx.toNat ≠ 0) :
    regWrite idx w s = .next (storeRegister idx w s) :=
  if_neg fun hc => h (congrArg BitVec.toNat hc)

/-- A step whose next action drives the signals is one edge. -/
theorem step_driven {s : State} {p : PortIn} {done : Bool} {rest : List HostAction}
    (h : s.script = .drive p done :: rest) :
    step s = clockEdge p done { s with script := rest } :=
  step_cons s _ rest h

/-- A step at which a transaction completes (R51). -/
theorem step_transact {s : State} {p : PortIn} {t : Transaction} {rest : List HostAction}
    (h : s.script = .drive p true :: rest) (hp : p.rst = false) (hr : p.request = some t)
    (hh : s.held = none ∨ s.held = some t) :
    step s = transact t { s with script := rest, held := none } :=
  (step_driven h).trans (clockEdge_done p { s with script := rest } t hp hr hh)

/-- A step whose next action is a copy, when its read completes: the write of the value read is what the
host does next (R80 `MOVRA`). -/
theorem step_copy {s : State} {src dst : WordIndex} {rest : List HostAction}
    (h : s.script = .copy src dst true :: rest) (hh : s.held = none ∨ s.held = some (.read src)) :
    step s = .next { s with
      script := .drive (writeSignals dst (regRead src s)) true :: rest
      held := none
      readLog := s.readLog ++ [regRead src s] } := by
  rw [step_cons s _ rest h]
  simp only [hostCycle]
  rw [clockEdge_done (readSignals src) { s with script := rest } (.read src) rfl rfl hh]
  rfl

/-- A step whose next action is a check, when its read completes (R80 `CHK`). -/
theorem step_check {s : State} {rest : List HostAction} (h : s.script = .check true :: rest)
    (hh : s.held = none ∨ s.held = some (.read 1)) :
    step s = .next { s with
      script := if regRead 1 s = 0x00000010 then rest else []
      held := none
      readLog := s.readLog ++ [regRead 1 s] } := by
  rw [step_cons s _ rest h]
  simp only [hostCycle]
  rw [clockEdge_done (readSignals 1) { s with script := rest } (.read 1) rfl rfl hh]
  by_cases hc : regRead 1 s = 0x00000010
  · have hc' : regRead 1 { s with script := rest } = 0x00000010 := hc
    rw [transact_read, andThen_next, if_neg (fun x => x.2 hc'), if_pos hc]
    rfl
  · have hc' : regRead 1 { s with script := rest } ≠ 0x00000010 := hc
    rw [transact_read, andThen_next, if_pos ⟨trivial, hc'⟩, if_neg hc]
    rfl

end Sys2Proof.Machine
end

