-- ==== Sys2Proof/Tests/Slice0.lean ====
section
/-!
SUPPORT. The model's own tests: words written out from the encoding of R70 to R72, ill-formed lines,
vectors of spec/95_test_vectors.md, and for every statement with hypotheses a state and operands that
meet them. Expected values are the spec's, never the model's own answers.
-/

namespace Sys2Proof.Machine.Tests

/-- The next state, when there is one. -/
def nextOf (o : Host.Outcome State Fault Refusal) : Option State :=
  match o with
  | .next s => some s
  | .fault _ => none
  | .refused _ => none

/-- STATUS and R after a command, as unsigned numbers. -/
def outcome (o : Host.Outcome State Fault Refusal) : Option (Nat × List Nat) :=
  (nextOf o).map fun t => (t.status.toNat, t.r.toList.map BitVec.toNat)

/-- The reset state with a modulus and the A registers written. -/
def withA (m : Word) (a : Vector Word 9) : State := { State.reset with mod := m, a := a }

/-- The reset state with a modulus and SA written. -/
def withSA (m sa : Word) : State := { State.reset with mod := m, sa := sa }

/-- The reference key of spec/95_test_vectors.md. -/
def key : Vector Word 9 := #v[6, 24, 1, 13, 16, 10, 20, 17, 15]

/-- The 2 by 2 matrix with rows 3 3 and 2 5. -/
def small : Vector Word 9 := #v[3, 3, 0, 2, 5, 0, 0, 0, 0]

/-- The 2 by 2 matrix with rows -3 5 and 7 -2, and 99 in A2 (spec/95_test_vectors.md P6). -/
def signed : Vector Word 9 := #v[0xFFFFFFFD, 5, 99, 7, 0xFFFFFFFE, 0, 0, 0, 0]

/-! ## Decoding: words from the table of R72 and the worked words of R81 and ENC-1 to ENC-19 -/

theorem test_decode_det : decode 0b00000000000000000000000000110001#32 = .ok (.det 3) := by decide

theorem test_decode_modinv : decode 0b00000000000000000000000000000010#32 = .ok .modinv := by decide

theorem test_decode_modinv_n : decode 0b00000000000000000000000011110010#32 = .ok .modinv := by decide

theorem test_decode_adj : decode 0b00000000000000000000000000010011#32 = .ok (.adj 1) := by decide

theorem test_decode_matinv : decode 0b00000000000000000000000000110100#32 = .ok (.matinv 3) := by decide

theorem test_decode_matvec : decode 0b00000000000000000000000011110101#32 = .ok (.matvec 15) := by decide

theorem test_decode_op_0 : decode 0x00000030 = .error .reservedOp := by decide

theorem test_decode_op_6 : decode 0x00000036 = .error .reservedOp := by decide

theorem test_decode_op_15 : decode 0x0000003F = .error .reservedOp := by decide

theorem test_decode_bit_8 : decode 0x00000131 = .error .zeroField := by decide

theorem test_decode_bit_31 : decode 0x80000031 = .error .zeroField := by decide

theorem test_encode_matvec : encode (.matvec 2) = 0b00000000000000000000000000100101#32 := by decide

theorem test_table_word : decodeTableWord 32 0x25 = some (.matvec 2) := by decide

/-! ## Well-formed lines, with an ill-formed line for each check -/

theorem test_wf_instr : Instr.wellFormed (.det 15) = true := by decide

theorem test_wf_lda : (AsmLine.lda 2 [[-3, 5], [7, -2]]).wellFormed = true := by decide

theorem test_ill_lda_size : (AsmLine.lda 4 []).wellFormed = false := by decide

theorem test_ill_lda_rows : (AsmLine.lda 2 [[1, 2]]).wellFormed = false := by decide

theorem test_ill_lda_columns : (AsmLine.lda 2 [[1, 2], [3]]).wellFormed = false := by decide

theorem test_ill_lda_value : (AsmLine.lda 1 [[4294967296]]).wellFormed = false := by decide

theorem test_ill_ldv_size : (AsmLine.ldv 0 []).wellFormed = false := by decide

theorem test_ill_ldv_length : (AsmLine.ldv 2 [1]).wellFormed = false := by decide

theorem test_ill_ldv_value : (AsmLine.ldv 1 [-2147483649]).wellFormed = false := by decide

theorem test_ill_ldsa : (AsmLine.ldsa (-2147483649)).wellFormed = false := by decide

theorem test_ill_setmod : (AsmLine.setmod (-1)).wellFormed = false := by decide

theorem test_ill_wr_operand : (AsmLine.wr (.v 2) 4294967296).wellFormed = false := by decide

theorem test_ill_wr_other : (AsmLine.wr .status (-1)).wellFormed = false := by decide

theorem test_ill_rdr : (AsmLine.rdr 4).wellFormed = false := by decide

theorem test_ill_rdv : (AsmLine.rdv 0).wellFormed = false := by decide

theorem test_ill_movra : (AsmLine.movra 4).wellFormed = false := by decide

/-! ## One command on a small state: spec/95_test_vectors.md sections 2.3 to 2.7 -/

/-- DET-1. -/
theorem test_det_key :
    outcome (exec (.det 3) (withA 26 key)) = some (16, [25, 0, 0, 0, 0, 0, 0, 0, 0]) := by decide

/-- DET-10: negative entries, the stride of 3, and A2 ignored. -/
theorem test_det_signed :
    outcome (exec (.det 2) (withA 26 signed)) = some (16, [23, 0, 0, 0, 0, 0, 0, 0, 0]) := by decide

/-- MODINV-2. -/
theorem test_modinv_negative :
    outcome (exec .modinv (withSA 26 0xFFFFFFFD)) = some (16, [17, 0, 0, 0, 0, 0, 0, 0, 0]) := by
  decide

/-- MODINV-11. -/
theorem test_modinv_one :
    outcome (exec .modinv (withSA 1 1)) = some (3, [0, 0, 0, 0, 0, 0, 0, 0, 0]) := by decide

/-- ADJ-1. -/
theorem test_adj_key :
    outcome (exec (.adj 3) (withA 26 key)) = some (16, [18, 21, 16, 5, 18, 5, 5, 14, 18]) := by decide

/-- ADJ-10: the negation of the least entry is exact. -/
theorem test_adj_least :
    outcome (exec (.adj 2) (withA 26 #v[5, 0x80000000, 0, 7, 9, 0, 0, 0, 0])) =
      some (16, [9, 24, 0, 19, 5, 0, 0, 0, 0]) := by decide

/-- MATINV-1. -/
theorem test_matinv_key :
    outcome (exec (.matinv 3) (withA 26 key)) = some (16, [8, 5, 10, 21, 8, 21, 21, 12, 8]) := by
  decide

/-- MATINV-7: singular under 26 although the integer determinant is not 0. -/
theorem test_matinv_singular :
    outcome (exec (.matinv 2) (withA 26 #v[26, 1, 0, 0, 1, 0, 0, 0, 0])) =
      some (2, [0, 0, 0, 0, 0, 0, 0, 0, 0]) := by decide

/-- MATVEC-1. -/
theorem test_matvec_key :
    outcome (exec (.matvec 3) { withA 26 key with v := #v[0, 2, 19] }) =
      some (16, [15, 14, 7, 0, 0, 0, 0, 0, 0]) := by decide

/-- MATVEC-8. -/
theorem test_matvec_signed :
    outcome (exec (.matvec 2) { withA 26 signed with v := #v[0xFFFFFFFF, 30, 0] }) =
      some (16, [23, 11, 0, 0, 0, 0, 0, 0, 0]) := by decide

/-! ## Writes to CMD: the order of the errors (ERR-1 to ERR-4) -/

theorem test_err_1 : outcome (regWrite 0 0x00000104 (withSA 0 0)) =
    some (5, [0, 0, 0, 0, 0, 0, 0, 0, 0]) := by decide

theorem test_err_2 : outcome (regWrite 0 0x00000004 (withSA 0 0)) =
    some (4, [0, 0, 0, 0, 0, 0, 0, 0, 0]) := by decide

theorem test_err_3 : outcome (regWrite 0 0x00000054 (withSA 1 0)) =
    some (1, [0, 0, 0, 0, 0, 0, 0, 0, 0]) := by decide

theorem test_err_4 : outcome (regWrite 0 0x00000024 State.reset) =
    some (2, [0, 0, 0, 0, 0, 0, 0, 0, 0]) := by decide

/-! ## The port (PORT-2, PORT-3, PORT-5, PORT-7) and the step -/

theorem test_port_2 :
    (nextOf (regWrite 8 0xDEADBEEF State.reset)).map (regRead 8) = some 0xDEADBEEF := by decide

theorem test_port_3 :
    (nextOf (regWrite 2 0x0001001B State.reset)).map (regRead 2) = some 0x0000001B := by decide

theorem test_port_5 :
    (nextOf (regWrite 1 0xFFFFFFFF State.reset)).map (regRead 1) = some 0x00000000 := by decide

theorem test_port_7 :
    (nextOf (regWrite 25 0x12345678 State.reset)).map
      (fun t => (regRead 25 t, regRead 1 t)) = some (0, 0) := by decide

/-- RESET-2, ENC-5: the first step after reset runs the command placed. -/
theorem test_step_adj :
    outcome (step (State.reset.withFetchWord 32 0x13)) =
      some (16, [1, 0, 0, 0, 0, 0, 0, 0, 0]) := by decide

/-- The second edge of a write that the block is done with only then (R51): nothing changes at the
first. -/
theorem test_step_waits :
    (nextOf (step { State.reset with script := [.drive (writeSignals 3 7) false,
      .drive (writeSignals 3 7) true] })).map (fun t => (t.sa, t.held)) =
        some (0, some (.write 3 7)) := by decide

/-! ## Witnesses: for every statement with hypotheses, a case that meets them -/

/-- The host drives `p`, and the block is done with it. -/
def driving (p : PortIn) : State := { State.reset with script := [.drive p true] }

/-- The host reads `idx`. -/
def reading (idx : WordIndex) : State := driving (readSignals idx)

/-- The host writes `w` to `idx`. -/
def writing (idx : WordIndex) (w : Word) : State := driving (writeSignals idx w)

/-- DecodeEncodeAgree: an encoded word, and MODINV with another N. -/
theorem witness_decodeEncodeAgree :
    decode (encode (.matvec 15)) = .ok (.matvec 15) ∧ decode 0x000000F2 = .ok .modinv ∧
      encode .modinv ≠ 0x000000F2 := by decide

/-- OpcodeMapSelects: the first and the last row. -/
theorem witness_opcodeMapSelects :
    (⟨"DET", 0xFFFFFF0F, 0x00000001⟩ : OpcodeRow) ∈ opcodeMap ∧
      (⟨"MATVEC", 0xFFFFFF0F, 0x00000005⟩ : OpcodeRow) ∈ opcodeMap := by decide

/-- IllegalWordsRaise: bit 8, OP 0, OP 6; and OP 5 and OP 1 are legal. -/
theorem witness_illegalWordsRaise :
    IllegalWord 0x00000101 ∧ IllegalWord 0x00000030 ∧ IllegalWord 0x00000036 ∧
      ¬IllegalWord 0x000000F5 ∧ ¬IllegalWord 0x00000001 := by
  unfold IllegalWord
  decide

/-- ModinvIgnoresN: two words of MODINV, and a word of another command. -/
theorem witness_modinvIgnoresN :
    decode 0x00000002 = .ok .modinv ∧ decode 0x000000F2 = .ok .modinv ∧
      decode 0x00000011 = .ok (.det 1) ∧ Instr.det 1 ≠ .modinv := by decide

/-- Results: a zero modulus, and the least and the largest modulus that are not. -/
theorem witness_modulus :
    (withA 0 key).mod.toNat % 65536 = 0 ∧ (withA 1 key).mod.toNat % 65536 = 1 ∧
      (withA 65535 key).mod.toNat % 65536 = 65535 := by decide

/-- Results: field values that are no dimension, and the three that are. -/
theorem witness_size :
    (∀ d : Dim, (0 : BitVec 4).toNat ≠ d.n) ∧ (∀ d : Dim, (4 : BitVec 4).toNat ≠ d.n) ∧
      (∀ d : Dim, (15 : BitVec 4).toNat ≠ d.n) ∧ (1 : BitVec 4).toNat = Dim.one.n ∧
      (2 : BitVec 4).toNat = Dim.two.n ∧ (3 : BitVec 4).toNat = Dim.three.n := by
  refine ⟨?_, ?_, ?_, rfl, rfl, rfl⟩ <;> intro d <;> cases d <;> decide

/-- The reference key as a matrix of integers. -/
def keyMatrix : Matrix (Fin 3) (Fin 3) Int := !![6, 24, 1; 13, 16, 10; 20, 17, 15]

/-- The matrix of `small`. -/
def smallMatrix : Matrix (Fin 2) (Fin 2) Int := !![3, 3; 2, 5]

/-- DetResult, AdjResult, MatinvResult, MatvecResult: size 3. -/
theorem witness_holds_key : HoldsMatrix (withA 26 key).a .three keyMatrix := by
  unfold HoldsMatrix
  decide

/-- DetResult, AdjResult, MatinvResult, MatvecResult: size 2. -/
theorem witness_holds_small : HoldsMatrix (withA 26 small).a .two smallMatrix := by
  unfold HoldsMatrix
  decide

/-- DetResult, AdjResult, MatinvResult, MatvecResult: size 1, the least value of an entry. -/
theorem witness_holds_least :
    HoldsMatrix (withA 26 #v[0x80000000, 0, 0, 0, 0, 0, 0, 0, 0]).a .one
      (fun _ _ => (-2147483648 : Int)) := by
  unfold HoldsMatrix
  decide

/-- MatvecResult: a vector. -/
theorem witness_holds_vector :
    HoldsVector ({ withA 26 small with v := #v[7, 0xFFFFFFFF, 0] } : State).v .two
      (![7, -1] : Fin 2 → Int) := by
  unfold HoldsVector
  decide

/-- ModinvResult: m = 0, m = 1, and with m = 2 and m = 65535 both answers. -/
theorem witness_modinvResult :
    (withSA 0 1).mod.toNat % 65536 = 0 ∧ (withSA 1 1).mod.toNat % 65536 = 1 ∧
      (Nat.gcd (withSA 2 2).sa.toInt.natAbs ((withSA 2 2).mod.toNat % 65536) ≠ 1) ∧
      (Nat.gcd (withSA 2 1).sa.toInt.natAbs ((withSA 2 1).mod.toNat % 65536) = 1) ∧
      (Nat.gcd (withSA 65535 3).sa.toInt.natAbs ((withSA 65535 3).mod.toNat % 65536) ≠ 1) ∧
      Nat.gcd (withSA 65535 0xFFFFFFFF).sa.toInt.natAbs
        ((withSA 65535 0xFFFFFFFF).mod.toNat % 65536) = 1 := by decide

/-- MatinvResult, SingularOnlyFromMatinv, SingularBeforeNoInverse: a matrix of size 1 whose reduced
determinant is 0. -/
theorem witness_singular :
    HoldsMatrix (withA 26 #v[26, 0, 0, 0, 0, 0, 0, 0, 0]).a .one (fun _ _ => (26 : Int)) ∧
      (26 : Int) % (26 : Int) = 0 := by
  unfold HoldsMatrix
  decide

/-- MatinvResult: a reduced determinant that is not 0 and has no inverse. -/
theorem witness_noScalarInverse :
    HoldsMatrix (withA 4 #v[2, 0, 0, 0, 0, 0, 0, 0, 0]).a .one (fun _ _ => (2 : Int)) ∧
      (2 : Int) % (4 : Int) ≠ 0 ∧ NoScalarInverse ((2 : Int) % (4 : Int)) 4 := by
  unfold HoldsMatrix NoScalarInverse
  refine ⟨by decide, by decide, ?_⟩
  intro x h1 h4
  interval_cases x <;> decide

/-- MatinvResult: d = 9 and x = 3 (MATINV-10). -/
theorem witness_matinvInverse :
    1 ≤ 3 ∧ 3 < 26 ∧ (smallMatrix.det % 26 * 3) % 26 = 1 := by
  rw [show smallMatrix.det = 9 from by rw [smallMatrix, Matrix.det_fin_two_of]; rfl]
  decide

/-- DetResult, AdjResult, MatinvResult, SingularOnlyFromMatinv, SingularBeforeNoInverse: their
hypotheses on a command with a size, together, at the least and the largest dimension. -/
theorem witness_sizedCommand :
    ((withA 1 #v[0x80000000, 0, 0, 0, 0, 0, 0, 0, 0]).mod.toNat % 65536 ≠ 0 ∧
      (1 : BitVec 4).toNat = Dim.one.n ∧
      HoldsMatrix (withA 1 #v[0x80000000, 0, 0, 0, 0, 0, 0, 0, 0]).a .one
        (fun _ _ => (-2147483648 : Int))) ∧
    (withA 65535 key).mod.toNat % 65536 ≠ 0 ∧ (3 : BitVec 4).toNat = Dim.three.n ∧
      HoldsMatrix (withA 65535 key).a .three keyMatrix :=
  ⟨⟨by decide, rfl, witness_holds_least⟩, by decide, rfl, witness_holds_key⟩

/-- MatvecResult: its hypotheses together. -/
theorem witness_matvecResult :
    let s : State := { withA 26 small with v := #v[7, 0xFFFFFFFF, 0] }
    s.mod.toNat % 65536 ≠ 0 ∧ (2 : BitVec 4).toNat = Dim.two.n ∧
      HoldsMatrix s.a .two smallMatrix ∧ HoldsVector s.v .two (![7, -1] : Fin 2 → Int) :=
  ⟨by decide, rfl, witness_holds_small, witness_holds_vector⟩

/-- AdjugateOfSizeOne, BadModulusWhenZero, UnsupportedSizeOutsideOneToThree: moduli 1 and 26. -/
theorem witness_nonzeroModulus :
    (withSA 1 0).mod.toNat % 65536 ≠ 0 ∧ State.reset.mod.toNat % 65536 ≠ 0 := by decide

/-- BadModulusWhenZero: a word whose lower half is 0. -/
theorem witness_zeroHalf : (0x00010000 : Word).toNat % 65536 = 0 := by decide

/-- UnsupportedSizeOutsideOneToThree: both sides of each bound. -/
theorem witness_unsupportedSize :
    ((0 : BitVec 4) = 0 ∨ 4 ≤ (0 : BitVec 4).toNat) ∧ ((4 : BitVec 4) = 0 ∨ 4 ≤ (4 : BitVec 4).toNat) ∧
      ¬((1 : BitVec 4) = 0 ∨ 4 ≤ (1 : BitVec 4).toNat) ∧
      ¬((3 : BitVec 4) = 0 ∨ 4 ≤ (3 : BitVec 4).toNat) := by decide

/-- ErrorsChangeOnlyStatus, SuccessWritesOnlyItsResult: a command that fails and one that succeeds. -/
theorem witness_statuses :
    (nextOf (regWrite 0 0x00000024 State.reset)).map (fun t => t.status == 0x00000010) = some false ∧
      (nextOf (exec (.det 3) State.reset)).map (fun t => t.status == 0x00000010) = some true ∧
      (8 : Fin 9).val ∉ resultRegisters (.adj 2) ∧ (4 : Fin 9).val ∈ resultRegisters (.adj 2) := by
  decide

/-- FirstErrorIsReported, priority 1, with priority 2 applying to the modulus. -/
theorem witness_illegalApplies : Applies 0x00000104 (withSA 0 0) .illegalCommand := by
  unfold Applies IllegalWord
  decide

/-- FirstErrorIsReported, priority 2 (ERR-2). -/
theorem witness_badModulusApplies :
    Applies 0x00000004 (withSA 0 0) .badModulus ∧
      ∀ e, priority e < priority .badModulus → ¬Applies 0x00000004 (withSA 0 0) e := by
  refine ⟨by unfold Applies IllegalWord; decide, fun e he => ?_⟩
  cases e
  case illegalCommand =>
    unfold Applies IllegalWord
    decide
  all_goals exact absurd he (by decide)

/-- FirstErrorIsReported, priority 3 (ERR-3). -/
theorem witness_unsupportedApplies :
    Applies 0x00000054 (withSA 1 0) .unsupportedSize ∧
      ∀ e, priority e < priority .unsupportedSize → ¬Applies 0x00000054 (withSA 1 0) e := by
  have hw : ¬IllegalWord 0x00000054 := by
    unfold IllegalWord
    decide
  refine ⟨⟨hw, by decide, fun d => by cases d <;> decide⟩, fun e he => ?_⟩
  cases e
  case illegalCommand => exact hw
  case badModulus => exact fun h => absurd h.2 (by decide)
  all_goals exact absurd he (by decide)

/-- FirstErrorIsReported, priority 4, on the zero matrix of size 1 after reset. -/
theorem witness_singularApplies :
    Applies 0x00000014 State.reset .singularMatrix ∧
      ∀ e, priority e < priority .singularMatrix → ¬Applies 0x00000014 State.reset e := by
  have hw : ¬IllegalWord 0x00000014 := by
    unfold IllegalWord
    decide
  refine ⟨⟨hw, by decide, .one, 0, by decide, by unfold HoldsMatrix; decide, ?_⟩, fun e he => ?_⟩
  · rw [show (0 : Matrix (Fin Dim.one.n) (Fin Dim.one.n) Int).det = 0 from Matrix.det_fin_one _]
    decide
  · cases e
    case illegalCommand => exact hw
    case badModulus => exact fun h => absurd h.2 (by decide)
    case unsupportedSize => exact fun h => h.2.2 .one (by decide)
    all_goals exact absurd he (by decide)

/-- FirstErrorIsReported, priority 5: MODINV under m = 1 (R152). -/
theorem witness_noInverseApplies :
    Applies 0x00000002 (withSA 1 0) .noInverse ∧
      ∀ e, priority e < priority .noInverse → ¬Applies 0x00000002 (withSA 1 0) e := by
  have hw : ¬IllegalWord 0x00000002 := by
    unfold IllegalWord
    decide
  have hm : (withSA 1 0).mod.toNat % 65536 = 1 := by decide
  refine ⟨⟨hw, .inl ⟨by decide, fun x h1 h2 => ?_⟩⟩, fun e he => ?_⟩
  · rw [hm] at h2
    omega
  · cases e
    case illegalCommand => exact hw
    case badModulus => exact fun h => absurd h.2 (by decide)
    case unsupportedSize => exact fun h => h.2.1 (by decide)
    case singularMatrix => exact fun h => absurd h.2.1 (by decide)
    case noInverse => exact absurd he (by decide)

/-- FirstErrorIsReported: a word and a state to which no error applies. -/
theorem witness_noErrorApplies : ∀ e, ¬Applies 0x00000011 State.reset e := by
  intro e
  have hw : ¬IllegalWord 0x00000011 := by
    unfold IllegalWord
    decide
  cases e
  case illegalCommand => exact hw
  case badModulus => exact fun h => absurd h.2 (by decide)
  case unsupportedSize => exact fun h => h.2.2 .one (by decide)
  case singularMatrix => exact fun h => absurd h.2.1 (by decide)
  case noInverse => exact fun h => h.2.elim (fun x => absurd x.1 (by decide)) fun x => absurd x.1 (by decide)

/-- ErrorsAreNotSticky, RegistersChangeOnlyByTheirCauses: a step that changes STATUS. -/
theorem witness_statusChanges :
    ∃ t, step (State.reset.withFetchWord 32 0x11) = .next t ∧ t.status ≠ State.reset.status :=
  ⟨_, rfl, by decide⟩

/-- RegistersChangeOnlyByTheirCauses: steps that change MOD, SA, A8, V2, and R0. -/
theorem witness_registersChange :
    (nextOf (step (writing 2 27))).map State.mod = some 27 ∧
      (nextOf (step (writing 3 7))).map State.sa = some 7 ∧
      (nextOf (step (writing 12 7))).map (fun t => t.a.get 8) = some 7 ∧
      (nextOf (step (writing 15 7))).map (fun t => t.v.get 2) = some 7 ∧
      (nextOf (step (writing 0 0x13))).map (fun t => t.r.get 0) = some 1 := by decide

/-- RegistersChangeOnlyByTheirCauses: ADJ 1 completes, R0 changes and is of its result, STATUS is
0x00000010; and a reset that changes MOD. -/
theorem witness_resultChanges :
    (∃ t, step (writing 0 0x13) = .next t ∧ t.r.get 0 ≠ (writing 0 0x13).r.get 0 ∧
      t.status = 0x00000010) ∧ decode 0x13 = .ok (.adj 1) ∧
      (0 : Fin 9).val ∈ resultRegisters (.adj 1) ∧
      ∃ t, step { driving resetSignals with mod := 27 } = .next t ∧ t.mod ≠ 27 :=
  ⟨⟨_, rfl, by decide, rfl⟩, rfl, by decide, _, rfl, by decide⟩

/-- MatinvIsTwoSidedInverse: MATINV-10. -/
theorem witness_matinvIsTwoSidedInverse :
    HoldsMatrix (withA 26 small).a .two smallMatrix ∧
      ∃ t, exec (.matinv 2) (withA 26 small) = .next t ∧ t.status = 0x00000010 ∧
        HoldsUnsigned t.r .two (!![15, 17; 20, 9] : Matrix (Fin 2) (Fin 2) Int) := by
  refine ⟨witness_holds_small, _, rfl, by decide, ?_⟩
  unfold HoldsUnsigned
  decide

/-- MatvecWithInverseDecrypts: MATINV-10, MATVEC-6 and the state of MATVEC-7. -/
theorem witness_matvecWithInverseDecrypts :
    ∃ tInv tEnc : State,
      let s : State := { withA 26 small with v := #v[7, 4, 0] }
      let u : State := { withA 26 #v[15, 17, 0, 20, 9, 0, 0, 0, 0] with v := #v[7, 8, 0] }
      exec (.matinv 2) s = .next tInv ∧ tInv.status = 0x00000010 ∧
        exec (.matvec 2) s = .next tEnc ∧
        HoldsVector s.v .two (![7, 4] : Fin 2 → Int) ∧
        (∀ j : Fin 2, 0 ≤ (![7, 4] : Fin 2 → Int) j ∧ (![7, 4] : Fin 2 → Int) j < 26) ∧
        u.mod = s.mod ∧ (∀ k, InPart .two k → u.a.get k = tInv.r.get k) ∧
        ∀ (j : Fin 3) (k : Fin 9), j.val < Dim.two.n → k.val = j.val → u.v.get j = tEnc.r.get k := by
  refine ⟨_, _, rfl, by decide, rfl, ?_, by decide, by decide, ?_, by decide⟩
  · unfold HoldsVector
    decide
  · unfold InPart
    decide

/-- AdjugateTimesMatrixIsDet: DET-8 and ADJ-7. -/
theorem witness_adjugateTimesMatrixIsDet :
    HoldsMatrix (withA 26 small).a .two smallMatrix ∧
      ∃ tDet tAdj, exec (.det 2) (withA 26 small) = .next tDet ∧
        exec (.adj 2) (withA 26 small) = .next tAdj ∧
        HoldsUnsigned tAdj.r .two (!![5, 23; 24, 3] : Matrix (Fin 2) (Fin 2) Int) := by
  refine ⟨witness_holds_small, _, _, rfl, rfl, ?_⟩
  unfold HoldsUnsigned
  decide

/-- MatinvFromDetModinvAdj: DET-8, MODINV on its result, and ADJ-7; MATINV-10 succeeds. -/
theorem witness_matinvFromDetModinvAdj :
    ∃ tDet tInv tAdj t, exec (.det 2) (withA 26 small) = .next tDet ∧
      exec .modinv { withA 26 small with sa := tDet.r.get 0 } = .next tInv ∧
      exec (.adj 2) (withA 26 small) = .next tAdj ∧
      exec (.matinv 2) (withA 26 small) = .next t ∧ t.status = 0x00000010 :=
  ⟨_, _, _, _, rfl, rfl, rfl, rfl, by decide⟩

/-- ResultsAreResidues: a command with a matrix result, and MODINV. -/
theorem witness_resultsAreResidues :
    (nextOf (exec (.matinv 2) (withA 26 small))).map State.status = some 0x00000010 ∧
      (nextOf (exec .modinv (withSA 26 0xFFFFFFFD))).map State.status = some 0x00000010 ∧
      (4 : Fin 9).val ∈ resultRegisters (.matinv 2) := by decide

/-- CongruentOperandsAgree, OtherRegistersAreIgnored: two states that differ. -/
theorem witness_congruentOperands :
    let s := withA 26 small
    let u := withA 26 (small.set 0 0xFFFFFFE9)
    u.mod = s.mod ∧ u.r = s.r ∧ u.a ≠ s.a ∧
      (∀ k, (u.a.get k).toInt % 26 = (s.a.get k).toInt % 26) ∧
      (∀ k, (u.v.get k).toInt % 26 = (s.v.get k).toInt % 26) ∧
      u.sa.toInt % 26 = s.sa.toInt % 26 := by decide

/-- OtherRegistersAreIgnored: with A2, V2 and SA different, MATVEC 2 has the operands it had. -/
theorem witness_otherRegisters :
    let s := withA 26 small
    let u : State := { withA 26 (small.set 2 99) with v := #v[0, 0, 5], sa := 9 }
    let i := Instr.matvec 2
    u.mod = s.mod ∧ u.a ≠ s.a ∧ u.v ≠ s.v ∧ u.sa ≠ s.sa ∧
      (∀ n d k, (i = .det n ∨ i = .adj n ∨ i = .matinv n ∨ i = .matvec n) → n.toNat = Dim.n d →
        InPart d k → u.a.get k = s.a.get k) ∧
      (∀ n d, ∀ j : Fin 3, i = .matvec n → n.toNat = Dim.n d → j.val < d.n →
        u.v.get j = s.v.get j) ∧
      (i = .modinv → u.sa = s.sa) := by
  refine ⟨rfl, by decide, by decide, by decide, ?_, ?_, fun h => by cases h⟩
  · intro n d k hi hn
    have h2 : n = 2 := by
      obtain h | h | h | h := hi <;> cases h
      rfl
    subst h2
    cases d
    case two =>
      revert k
      unfold InPart
      decide
    all_goals exact absurd hn (by decide)
  · intro n d j hi hn
    cases hi
    cases d
    case two =>
      revert j
      decide
    all_goals exact absurd hn (by decide)

/-- CommandsLeaveOperands: the indices beside the excluded ones. -/
theorem witness_otherIndices :
    (0 : WordIndex).toNat ≠ 1 ∧ ¬(16 ≤ (15 : WordIndex).toNat ∧ (15 : WordIndex).toNat ≤ 24) ∧
      ¬(16 ≤ (25 : WordIndex).toNat ∧ (25 : WordIndex).toNat ≤ 24) := by decide

/-- ReadsReturnTheTable: a read of any index can complete, the boundary ones of each clause among
them. -/
theorem witness_readCompletes (idx : WordIndex) : Completes (reading idx) (.read idx) [] :=
  ⟨readSignals idx, rfl, rfl, rfl, .inl rfl⟩

/-- ReadsReturnTheTable: a read that was held completes too. -/
theorem witness_heldReadCompletes :
    Completes { reading 2 with held := some (.read 2) } (.read 2) [] :=
  ⟨readSignals 2, rfl, rfl, rfl, .inr rfl⟩

/-- WritesHaveTheTablesEffect, StepRunsTheDecodedCommand: a write to any index can complete. -/
theorem witness_writeCompletes (idx : WordIndex) (w : Word) :
    Completes (writing idx w) (.write idx w) [] :=
  ⟨writeSignals idx w, rfl, rfl, rfl, .inl rfl⟩

/-- ReadsReturnTheTable, WritesHaveTheTablesEffect, ReadOnlyAndReservedIndices,
OperandReadsBackWhatWasWritten: the first and the last index of each clause. -/
theorem witness_indices :
    (4 : WordIndex).toNat = 4 + (0 : Fin 9).val ∧ (12 : WordIndex).toNat = 4 + (8 : Fin 9).val ∧
      (13 : WordIndex).toNat = 13 + (0 : Fin 3).val ∧ (15 : WordIndex).toNat = 13 + (2 : Fin 3).val ∧
      (16 : WordIndex).toNat = 16 + (0 : Fin 9).val ∧ (24 : WordIndex).toNat = 16 + (8 : Fin 9).val ∧
      25 ≤ (25 : WordIndex).toNat ∧ 25 ≤ (31 : WordIndex).toNat ∧ 3 ≤ (3 : WordIndex).toNat ∧
      (15 : WordIndex).toNat ≤ 15 := by decide

/-- ReadOnlyAndReservedIndices: ignored writes to STATUS, R0, and index 31. -/
theorem witness_ignoredWrites :
    Drives (writing 1 5) (writeSignals 1 5) true [] ∧ (writing 1 5).held = none ∧
      Drives (writing 16 5) (writeSignals 16 5) true [] ∧
      Drives (writing 31 5) (writeSignals 31 5) true [] ∧ 16 ≤ (31 : WordIndex).toNat :=
  ⟨rfl, rfl, rfl, rfl, by decide⟩

/-- CmdRunsTheWord, StepRunsTheDecodedCommand: a write of a word that decodes. -/
theorem witness_stepRunsTheDecodedCommand :
    Completes (writing 0 0x25) (.write 0 0x25) [] ∧ decode 0x25 = .ok (.matvec 2) :=
  ⟨witness_writeCompletes 0 0x25, rfl⟩

/-- NothingChangesBeforeAck: a request that waits, held or not, and a cycle without one. -/
theorem witness_nothingChangesBeforeAck :
    Drives { State.reset with script := [.drive (writeSignals 3 7) false] } (writeSignals 3 7)
        false [] ∧
      Drives { State.reset with script := [.drive (writeSignals 3 7) false],
                                held := some (.write 3 7) } (writeSignals 3 7) false [] ∧
      (writeSignals 3 7).request = some (.write 3 7) ∧ (writeSignals 3 7).rst = false ∧
      Drives (driving idleSignals) idleSignals true [] ∧ idleSignals.req = false ∧
      idleSignals.request = none ∧ idleSignals.rst = false :=
  ⟨rfl, rfl, rfl, rfl, rfl, rfl, rfl, rfl⟩

/-- ReadDataMatchesTheLog: a read and a write that were held and are acknowledged. -/
theorem witness_heldRequests :
    Drives { reading 2 with held := some (.read 2) } (readSignals 2) true [] ∧
      (readSignals 2).request = some (.read 2) ∧ (readSignals 2).we = false ∧
      Drives { writing 3 7 with held := some (.write 3 7) } (writeSignals 3 7) true [] ∧
      (writeSignals 3 7).request = some (.write 3 7) ∧ (writeSignals 3 7).we = true :=
  ⟨rfl, rfl, rfl, rfl, rfl, rfl⟩

/-- ReadDataMatchesTheLog: a read and a write that are acknowledged. -/
theorem witness_readDataMatchesTheLog :
    Drives (reading 2) (readSignals 2) true [] ∧ (readSignals 2).req = true ∧
      (readSignals 2).rst = false ∧ (reading 2).held = none ∧
      Drives (writing 3 7) (writeSignals 3 7) true [] ∧ (writeSignals 3 7).req = true :=
  ⟨rfl, rfl, rfl, rfl, rfl, rfl⟩

/-- NothingChangesBeforeAck: a copy that waits, held or not, and a check that waits. -/
theorem witness_waitingReads :
    ({ State.reset with script := [.copy 16 4 false] } : State).held = none ∧
      ({ State.reset with script := [.copy 16 4 false], held := some (.read 16) } : State).held =
        some (.read 16) ∧
      ({ State.reset with script := [.check false] } : State).script = [.check false] := by decide

/-- BrokenHandshakeIsRefused, StepAnswersUnlessHandshakeBroken: a copy and a check with another request
held. -/
theorem witness_brokenReads :
    step { State.reset with script := [.copy 16 4 true], held := some (.read 17) } =
        .refused .portProtocol ∧
      step { State.reset with script := [.check true], held := some (.write 1 5) } =
        .refused .portProtocol := ⟨rfl, rfl⟩

/-- BrokenHandshakeIsRefused: a request dropped, and a request changed. -/
theorem witness_brokenHandshake :
    Drives { driving idleSignals with held := some (.read 2) } idleSignals true [] ∧
      idleSignals.rst = false ∧ idleSignals.request ≠ some (.read 2) ∧
      Drives { writing 3 7 with held := some (.read 2) } (writeSignals 3 7) true [] ∧
      (writeSignals 3 7).request ≠ some (.read 2) :=
  ⟨rfl, rfl, by decide, rfl, by decide⟩

/-- CopyMovesOneElement: the first and the last element. -/
theorem witness_copy :
    ({ State.reset with script := [.copy (indexOf (.r 0)) (indexOf (.a 0)) true] } : State).script =
        [.copy 16 4 true] ∧
      ({ State.reset with script := [.copy (indexOf (.r 8)) (indexOf (.a 8)) true] } : State).script =
        [.copy 24 12 true] ∧ State.reset.held = none := by decide

/-- CheckStopsUnlessOk: STATUS is 0x00000010, and it is not. -/
theorem witness_check :
    ({ State.reset with script := [.check true], status := 0x00000010 } : State).status.toNat % 32 = 16 ∧
      ({ State.reset with script := [.check true] } : State).status.toNat % 32 ≠ 16 ∧
      ({ State.reset with script := [.check true] } : State).held = none := by decide

/-- ResetEdge: a reset with a request pending, then a transaction. -/
theorem witness_resetEdge :
    Drives { writing 3 7 with
        script := [.drive resetSignals false, .drive (writeSignals 3 7) true],
        held := some (.write 3 7) } resetSignals false [.drive (writeSignals 3 7) true] ∧
      resetSignals.rst = true ∧ (writeSignals 3 7).rst = false ∧
      (writeSignals 3 7).request = some (.write 3 7) ∧
      Drives (driving resetSignals) resetSignals true [] :=
  ⟨rfl, rfl, rfl, rfl, rfl⟩

/-- CommandsAfterReset: the three sizes. -/
theorem witness_sizesAfterReset :
    (1 : BitVec 4).toNat = 1 ∧ (2 : BitVec 4).toNat = 2 ∧ (3 : BitVec 4).toNat = 3 := by decide

/-- StepKeepsInv: a state after reset whose next step runs a command. -/
theorem witness_stepKeepsInv :
    BlockInv (writing 0 0x13) ∧ (nextOf (step (writing 0 0x13))).isSome = true := by
  refine ⟨⟨.inl rfl, by unfold LegalModulus; decide, ?_⟩, by decide⟩
  unfold LegalResult
  decide

end Sys2Proof.Machine.Tests
end

section
/-!
PROOFS. The statements about the model's scope: every step answers a next state unless the host breaks
the handshake (spec/00_scope.md R10, R12), the law L-ADJ (R16) and the law L-CONG (R8). The closed
formulas of the commands are tied to Mathlib's determinant, adjugate and product once, and both laws
are proved over those.
-/

namespace Sys2Proof.Machine

/-! ## Every step answers, but where the handshake is broken (spec/00_scope.md R10, R12) -/

/-- Every command answers a next state (R12, R193). -/
theorem exec_answers (i : Instr) (s : State) : ∃ t, exec i s = .next t := by
  cases i <;> exact ⟨_, rfl⟩

/-- Every write to CMD answers a next state, of an illegal word too (R12, R75). -/
theorem runCommand_answers (w : Word) (s : State) : ∃ t, runCommand w s = .next t := by
  cases h : decode w with
  | ok i => exact runCommand_ok w s i h ▸ exec_answers i s
  | error e => exact ⟨_, runCommand_error w s e h⟩

/-- Every transaction that completes answers a next state (R51, R193). -/
theorem transact_answers (t : Transaction) (s : State) : ∃ s', transact t s = .next s' := by
  cases t with
  | read idx => exact ⟨_, transact_read idx s⟩
  | write idx w =>
    rw [transact_write]
    by_cases h : idx = 0
    · subst h
      exact regWrite_command w s ▸ runCommand_answers w s
    · exact ⟨_, regWrite_store idx w s fun h0 => h (BitVec.eq_of_toNat_eq h0)⟩

/-- An edge answers a next state unless a held request is changed or dropped without a reset (V2). -/
theorem clockEdge_answers_or_refused (p : PortIn) (done : Bool) (s : State) :
    (∃ t, clockEdge p done s = .next t) ∨
    (clockEdge p done s = .refused .portProtocol ∧
      p.rst = false ∧ s.held ≠ none ∧ s.held ≠ p.request) := by
  obtain ⟨-, h⟩ | ⟨hrst, hheld, hne, h⟩ | ⟨-, -, -, h⟩ | ⟨_, -, -, -, -, h⟩ | ⟨t, -, -, -, -, h⟩ :=
    clockEdge_cases p done s
  · exact .inl ⟨_, h⟩
  · exact .inr ⟨h, hrst, hheld, hne⟩
  · exact .inl ⟨_, h⟩
  · exact .inl ⟨_, h⟩
  · exact .inl (h ▸ transact_answers t _)

/-- The signals a host action drives at its first edge: a copy's and a check's are those of its read. -/
def HostAction.signals : HostAction → PortIn
  | .drive p _ => p
  | .copy src _ _ => readSignals src
  | .check _ => readSignals 1

/-- What follows an edge changes neither whether it answers nor that it is refused. -/
theorem andThen_answers_or_refused {o : Host.Outcome State Fault Refusal} {P : Prop}
    (f : State → State) (h : (∃ t, o = .next t) ∨ (o = .refused .portProtocol ∧ P)) :
    (∃ t, andThen o f = .next t) ∨ (andThen o f = .refused .portProtocol ∧ P) := by
  obtain ⟨t, rfl⟩ | ⟨rfl, hP⟩ := h
  · exact .inl ⟨_, andThen_next t f⟩
  · exact .inr ⟨andThen_refused _ f, hP⟩

/-- A host action answers a next state unless its signals break the handshake (V2). -/
theorem hostCycle_answers_or_refused (c : HostAction) (s : State) :
    (∃ t, hostCycle c s = .next t) ∨
    (hostCycle c s = .refused .portProtocol ∧
      c.signals.rst = false ∧ s.held ≠ none ∧ s.held ≠ c.signals.request) := by
  cases c with
  | drive p done => exact clockEdge_answers_or_refused p done s
  | copy src dst done =>
    exact andThen_answers_or_refused _ (clockEdge_answers_or_refused (readSignals src) done s)
  | check done =>
    exact andThen_answers_or_refused _ (clockEdge_answers_or_refused (readSignals 1) done s)

/-- Settles O41, from what one edge can do: the only refusal is a broken handshake, and the script's
first action is the one whose signals broke it. -/
theorem stepAnswersUnlessHandshakeBroken : Obligations.StepAnswersUnlessHandshakeBroken := by
  intro s
  cases hs : s.script with
  | nil => exact .inl ⟨s, step_nil s hs⟩
  | cons c rest =>
    rw [step_cons s c rest hs]
    refine (hostCycle_answers_or_refused c { s with script := rest }).imp_right ?_
    rintro ⟨hstep, hrst, hheld, hne⟩
    refine ⟨hstep, hheld, List.cons_ne_nil c rest, ?_, ?_, ?_⟩
    · intro p done rest' hd
      cases hs.symm.trans hd
      exact ⟨hrst, hne⟩
    · rintro src dst done rest' ⟨⟩
      exact hne
    · rintro done rest' ⟨⟩
      exact hne

/-- Settles O36: the completed write of a word to CMD is `transact`, which runs the decoded command. -/
theorem stepRunsTheDecodedCommand : Obligations.StepRunsTheDecodedCommand := by
  rintro s w i rest ⟨p, hd, hrst, hreq, hheld⟩ hw
  calc step s = transact (.write 0 w) { s with script := rest, held := none } :=
        step_transact hd hrst hreq hheld
    _ = runCommand w { s with script := rest, held := none } := regWrite_command w _
    _ = exec i { s with script := rest, held := none } := runCommand_ok w _ i hw

/-! ## The closed formulas are Mathlib's determinant, adjugate and product (R91, R111, R131) -/

/-- The expansion of R91 along row 0 is the determinant. -/
theorem det3_eq_det (a : Fin 3 → Fin 3 → Int) : det3 a = (Matrix.of a).det := by
  rw [Matrix.det_fin_three]
  simp only [det3, Matrix.of_apply]
  ring

/-- The formulas of R91 are the determinant. -/
theorem determinant_eq_det (d : Dim) (a : IntMatrix d) :
    determinant d a = (Matrix.of a).det := by
  cases d with
  | one => exact (Matrix.det_fin_one (Matrix.of a)).symm
  | two => exact (Matrix.det_fin_two (Matrix.of a)).symm
  | three => exact det3_eq_det a

/-- The 2 by 2 formula of R111 is the adjugate. -/
theorem adj2_eq_adjugate (a : Fin 2 → Fin 2 → Int) : adj2 a = (Matrix.of a).adjugate := by
  rw [Matrix.adjugate_fin_two]
  funext i j
  fin_cases i <;> fin_cases j <;> rfl

/-- The 3 by 3 formula of R111 is the adjugate. -/
theorem adj3_eq_adjugate (a : Fin 3 → Fin 3 → Int) : adj3 a = (Matrix.of a).adjugate := by
  rw [Matrix.adjugate_fin_three]
  simp only [neg_add_eq_sub]
  funext i j
  fin_cases i <;> fin_cases j <;> rfl

/-- The formulas of R111 are the adjugate. -/
theorem adjugate_eq_adjugate (d : Dim) (a : IntMatrix d) :
    adjugate d a = (Matrix.of a).adjugate := by
  cases d with
  | one =>
    refine Eq.trans ?_ (Matrix.adjugate_fin_one (Matrix.of a)).symm
    funext i j
    fin_cases i
    fin_cases j
    rfl
  | two => exact adj2_eq_adjugate a
  | three => exact adj3_eq_adjugate a

/-- The sum of R130 is the matrix-vector product. -/
theorem product_eq_mulVec (d : Dim) (a : IntMatrix d) (v : IntVector d) :
    product d a v = (Matrix.of a).mulVec v := by
  funext i
  cases d with
  | one => exact (Fin.sum_univ_one fun j => a i j * v j).symm
  | two => exact (Fin.sum_univ_two fun j => a i j * v j).symm
  | three => exact (Fin.sum_univ_three fun j => a i j * v j).symm

/-- The matrix the A registers hold is the one the commands read (R22). -/
theorem matrix_eq_of_holdsMatrix {s : State} {d : Dim} {M : Matrix (Fin d.n) (Fin d.n) Int}
    (h : HoldsMatrix s.a d M) : Matrix.of (s.matrix d) = M := by
  ext i j
  exact h i j (cell d i j) rfl

/-! ## Law L-ADJ -/

/-- DET n with a modulus and a legal size (R90). -/
theorem exec_det_some {n : BitVec 4} {s : State} {d : Dim} (hm : s.modulus ≠ 0)
    (hd : dimOfField n = some d) : exec (.det n) s = .next (complete
      (writeScalar (red (determinant d (s.matrix d)) s.modulus) s)) :=
  congrArg Host.Outcome.next (withSize_some n s _ d hm hd)

/-- ADJ n with a modulus and a legal size (R110). -/
theorem exec_adj_some {n : BitVec 4} {s : State} {d : Dim} (hm : s.modulus ≠ 0)
    (hd : dimOfField n = some d) : exec (.adj n) s = .next (complete
      (writeMatrix d (fun i j => red (adjugate d (s.matrix d) i j) s.modulus) s)) :=
  congrArg Host.Outcome.next (withSize_some n s _ d hm hd)

/-- After DET n, R0 is the residue of the determinant of the matrix in A (R90). -/
theorem exec_det_r0 {n : BitVec 4} {s t : State} {d : Dim} (hm : s.modulus ≠ 0)
    (hd : dimOfField n = some d) (h : exec (.det n) s = .next t) :
    ((t.r.get 0).toNat : Int) ≡ (Matrix.of (s.matrix d)).det [ZMOD s.modulus] := by
  cases (exec_det_some hm hd).symm.trans h
  rw [complete_r, writeScalar_zero, zext32_red_toNat _ s hm, ← determinant_eq_det]
  exact red_modEq _ hm

/-- After ADJ n, R[3·i + j] is the residue of entry (i, j) of the adjugate of the matrix in A (R110). -/
theorem exec_adj_cell {n : BitVec 4} {s t : State} {d : Dim} (hm : s.modulus ≠ 0)
    (hd : dimOfField n = some d) (h : exec (.adj n) s = .next t) (i j : Fin d.n) :
    ((t.r.get (cell d i j)).toNat : Int) ≡ (Matrix.of (s.matrix d)).adjugate i j [ZMOD s.modulus] := by
  cases (exec_adj_some hm hd).symm.trans h
  rw [complete_r, writeMatrix_cell, zext32_red_toNat _ s hm, ← adjugate_eq_adjugate]
  exact red_modEq _ hm

/-- A product of matrices keeps congruence of its right factor (R8). -/
theorem mul_apply_modEq {d : Dim} {m : Nat} (M : Matrix (Fin d.n) (Fin d.n) Int)
    {B C : Matrix (Fin d.n) (Fin d.n) Int} (h : ∀ i j, B i j ≡ C i j [ZMOD m]) (i k : Fin d.n) :
    (M * B) i k ≡ (M * C) i k [ZMOD m] := by
  simp only [Matrix.mul_apply]
  exact Int.ModEq.sum fun j _ => (h j k).mul_left (M i j)

/-- Settles O23: `A · adj A = det A · 1` over the integers, read modulo m at DET's R0 and ADJ's R. -/
theorem adjugateTimesMatrixIsDet : Obligations.AdjugateTimesMatrixIsDet := by
  intro n s tDet tAdj d M B m hm hm0 hn hdet hadj hM hB i k
  rw [← modulus_eq] at hm
  subst hm
  have hd := (dimOfField_eq_some n d).2 hn
  have hR0 := exec_det_r0 hm0 hd hdet
  have hadjB : ∀ i j, B i j ≡ M.adjugate i j [ZMOD s.modulus] := fun i j => by
    rw [← hB i j (cell d i j) rfl, ← matrix_eq_of_holdsMatrix hM]
    exact exec_adj_cell hm0 hd hadj i j
  rw [matrix_eq_of_holdsMatrix hM] at hR0
  calc (M * B) i k ≡ (M * M.adjugate) i k [ZMOD s.modulus] := mul_apply_modEq M hadjB i k
    _ = M.det * (1 : Matrix (Fin d.n) (Fin d.n) Int) i k := by
        rw [Matrix.mul_adjugate, Matrix.smul_apply, smul_eq_mul]
    _ ≡ (tDet.r.get 0).toNat * (1 : Matrix (Fin d.n) (Fin d.n) Int) i k [ZMOD s.modulus] :=
        hR0.symm.mul_right _

/-! ## Law L-CONG (spec/00_scope.md R8) -/

/-! ### Congruent operands have congruent results -/

section CongruentMatrices

variable {d : Dim} {m : Nat} {a b : IntMatrix d}

/-- Matrices with congruent entries are one matrix over the residues modulo m (R8). -/
theorem mapMatrix_eq_of_modEq (h : ∀ i j, a i j ≡ b i j [ZMOD m]) :
    (Int.castRingHom (ZMod m)).mapMatrix (Matrix.of a) =
      (Int.castRingHom (ZMod m)).mapMatrix (Matrix.of b) :=
  Matrix.ext fun i j => (ZMod.intCast_eq_intCast_iff _ _ m).2 (h i j)

/-- Matrices with congruent entries have congruent determinants (R8). -/
theorem determinant_modEq (h : ∀ i j, a i j ≡ b i j [ZMOD m]) :
    determinant d a ≡ determinant d b [ZMOD m] := by
  rw [determinant_eq_det, determinant_eq_det, ← ZMod.intCast_eq_intCast_iff]
  calc Int.castRingHom (ZMod m) (Matrix.of a).det
      = ((Int.castRingHom (ZMod m)).mapMatrix (Matrix.of a)).det := RingHom.map_det _ _
    _ = ((Int.castRingHom (ZMod m)).mapMatrix (Matrix.of b)).det := by
        rw [mapMatrix_eq_of_modEq h]
    _ = Int.castRingHom (ZMod m) (Matrix.of b).det := (RingHom.map_det _ _).symm

/-- Matrices with congruent entries have congruent adjugates (R8). -/
theorem adjugate_modEq (h : ∀ i j, a i j ≡ b i j [ZMOD m]) (i j : Fin d.n) :
    adjugate d a i j ≡ adjugate d b i j [ZMOD m] := by
  rw [adjugate_eq_adjugate, adjugate_eq_adjugate, ← ZMod.intCast_eq_intCast_iff]
  have hadj : (Int.castRingHom (ZMod m)).mapMatrix (Matrix.of a).adjugate =
      (Int.castRingHom (ZMod m)).mapMatrix (Matrix.of b).adjugate := by
    rw [RingHom.map_adjugate, RingHom.map_adjugate, mapMatrix_eq_of_modEq h]
  exact congrFun₂ hadj i j

/-- Congruent factors have congruent matrix-vector products (R8). -/
theorem product_modEq {v w : IntVector d} (h : ∀ i j, a i j ≡ b i j [ZMOD m])
    (hv : ∀ j, v j ≡ w j [ZMOD m]) (i : Fin d.n) :
    product d a v i ≡ product d b w i [ZMOD m] := by
  simp only [product_eq_mulVec, Matrix.mulVec, dotProduct, Matrix.of_apply]
  exact Int.ModEq.sum fun j _ => (h i j).mul (hv j)

/-- The scaled adjugate of MATINV depends on the entries' residues only (R8, R123). -/
theorem scaledAdjugate_eq_of_modEq (hm : m ≠ 0) (h : ∀ i j, a i j ≡ b i j [ZMOD m]) (x : Nat) :
    scaledAdjugate d a x m = scaledAdjugate d b x m := by
  funext i j
  unfold scaledAdjugate
  rw [(red_eq_red_iff _ _ hm).2 (adjugate_modEq h i j)]

end CongruentMatrices

/-- The search for a scalar inverse depends on the residue only (R8, R100). -/
theorem minv_eq_of_modEq {a b : Int} {m : Nat} (hm : m ≠ 0) (h : a ≡ b [ZMOD m]) :
    minv a m = minv b m := by
  have hred : ∀ x : Nat, red (a * x) m = red (b * x) m := fun x =>
    (red_eq_red_iff _ _ hm).2 (h.mul_right x)
  simp only [minv, hred]

/-! ### Commands that end alike -/

/-- Two ends of a command agree: the same error, or results with the same R. -/
inductive SameEnd : Except CmdError State → Except CmdError State → Prop
  | ok {t t' : State} (h : t'.r = t.r) : SameEnd (.ok t) (.ok t')
  | error (e : CmdError) : SameEnd (.error e) (.error e)

/-- Two states show the host the same outcome: STATUS and R (R8). -/
structure SameOutcome (t t' : State) : Prop where
  status : t'.status = t.status
  r : t'.r = t.r

/-- A command answers in both states, with the same outcome (R8). -/
def ExecAgrees (i : Instr) (s u : State) : Prop :=
  ∃ t t', exec i s = .next t ∧ exec i u = .next t' ∧ SameOutcome t t'

section SameR

variable {s u : State} (hr : u.r = s.r)

include hr

/-- Ends that agree, recorded over one R, show the same outcome (R157, R158). -/
theorem finish_sameOutcome {x y : Except CmdError State} (h : SameEnd x y) :
    SameOutcome (finish s x) (finish u y) := by
  cases h with
  | ok h => exact ⟨rfl, h⟩
  | error e => exact ⟨rfl, hr⟩

/-- With one modulus, commands whose bodies agree show the same outcome, BadModulus too (R74). -/
theorem withModulus_sameOutcome (hmod : u.modulus = s.modulus)
    {body body' : Nat → Except CmdError State}
    (h : s.modulus ≠ 0 → SameEnd (body s.modulus) (body' s.modulus)) :
    SameOutcome (withModulus s body) (withModulus u body') := by
  by_cases hm : s.modulus = 0
  · rw [withModulus_zero s body hm, withModulus_zero u body' (hmod.trans hm)]
    exact ⟨rfl, hr⟩
  · rw [withModulus_pos s body hm, withModulus_pos u body' (hmod ▸ hm), hmod]
    exact finish_sameOutcome hr (h hm)

/-- The same for sized commands, UnsupportedSize too (R74). -/
theorem withSize_sameOutcome (n : BitVec 4) (hmod : u.modulus = s.modulus)
    {body body' : Dim → Nat → Except CmdError State}
    (h : s.modulus ≠ 0 → ∀ d, SameEnd (body d s.modulus) (body' d s.modulus)) :
    SameOutcome (withSize n s body) (withSize n u body') := by
  refine withModulus_sameOutcome hr hmod fun hm => ?_
  cases dimOfField n with
  | none => exact .error _
  | some d => exact h hm d

theorem writeScalar_sameR {x y : Nat} (h : y = x) :
    (writeScalar y u).r = (writeScalar x s).r := by
  simp only [writeScalar, hr, h]

theorem writeMatrix_sameR (d : Dim) {f g : Fin d.n → Fin d.n → Nat} (h : g = f) :
    (writeMatrix d g u).r = (writeMatrix d f s).r := by
  simp only [writeMatrix, hr, h]

theorem writeVector_sameR (d : Dim) {f g : Fin d.n → Nat} (h : g = f) :
    (writeVector d g u).r = (writeVector d f s).r := by
  simp only [writeVector, hr, h]

end SameR

/-! ### The commands -/

/-- The hypotheses of L-CONG: one modulus, one R, and operands congruent modulo it (R8). -/
structure CongruentOperands (s u : State) : Prop where
  modulus : u.modulus = s.modulus
  r : u.r = s.r
  a : ∀ k, (u.a.get k).toInt ≡ (s.a.get k).toInt [ZMOD s.modulus]
  v : ∀ k, (u.v.get k).toInt ≡ (s.v.get k).toInt [ZMOD s.modulus]
  sa : u.sa.toInt ≡ s.sa.toInt [ZMOD s.modulus]

namespace CongruentOperands

variable {s u : State} (h : CongruentOperands s u)

include h

theorem matrix (d : Dim) (i j : Fin d.n) :
    u.matrix d i j ≡ s.matrix d i j [ZMOD s.modulus] := h.a (cell d i j)

theorem vector (d : Dim) (j : Fin d.n) :
    u.vector d j ≡ s.vector d j [ZMOD s.modulus] := h.v (component d j)

theorem red_determinant (hm : s.modulus ≠ 0) (d : Dim) :
    red (determinant d (u.matrix d)) s.modulus = red (determinant d (s.matrix d)) s.modulus :=
  (red_eq_red_iff _ _ hm).2 (determinant_modEq (h.matrix d))

theorem det_agrees (n : BitVec 4) : ExecAgrees (.det n) s u :=
  ⟨_, _, rfl, rfl, withSize_sameOutcome h.r n h.modulus fun hm d =>
    .ok (writeScalar_sameR h.r (h.red_determinant hm d))⟩

theorem modinv_agrees : ExecAgrees .modinv s u := by
  refine ⟨_, _, rfl, rfl, withModulus_sameOutcome h.r h.modulus fun hm => ?_⟩
  have hinv : minv u.scalar s.modulus = minv s.scalar s.modulus := minv_eq_of_modEq hm h.sa
  rw [hinv]
  cases minv s.scalar s.modulus with
  | none => exact .error _
  | some x => exact .ok (writeScalar_sameR h.r rfl)

theorem adj_agrees (n : BitVec 4) : ExecAgrees (.adj n) s u :=
  ⟨_, _, rfl, rfl, withSize_sameOutcome h.r n h.modulus fun hm d =>
    .ok (writeMatrix_sameR h.r d (funext₂ fun i j =>
      (red_eq_red_iff _ _ hm).2 (adjugate_modEq (h.matrix d) i j)))⟩

theorem matinv_agrees (n : BitVec 4) : ExecAgrees (.matinv n) s u := by
  refine ⟨_, _, rfl, rfl, withSize_sameOutcome h.r n h.modulus fun hm d => ?_⟩
  rw [h.red_determinant hm d]
  by_cases h0 : red (determinant d (s.matrix d)) s.modulus = 0
  · rw [if_pos h0, if_pos h0]
    exact .error _
  · rw [if_neg h0, if_neg h0]
    cases minv (red (determinant d (s.matrix d)) s.modulus) s.modulus with
    | none => exact .error _
    | some x =>
      exact .ok (writeMatrix_sameR h.r d (scaledAdjugate_eq_of_modEq hm (h.matrix d) x))

theorem matvec_agrees (n : BitVec 4) : ExecAgrees (.matvec n) s u :=
  ⟨_, _, rfl, rfl, withSize_sameOutcome h.r n h.modulus fun hm d =>
    .ok (writeVector_sameR h.r d (funext fun i =>
      (red_eq_red_iff _ _ hm).2 (product_modEq (h.matrix d) (h.vector d) i)))⟩

theorem exec_agrees (i : Instr) : ExecAgrees i s u := by
  cases i with
  | det n => exact h.det_agrees n
  | modinv => exact h.modinv_agrees
  | adj n => exact h.adj_agrees n
  | matinv n => exact h.matinv_agrees n
  | matvec n => exact h.matvec_agrees n

end CongruentOperands

/-- Settles O26: over the residues modulo m, congruent operands have one determinant, adjugate, product
and scalar inverse, so each command ends alike. -/
theorem congruentOperandsAgree : Obligations.CongruentOperandsAgree := by
  rintro i s u m rfl hmod hr ha hv hsa
  rw [← modulus_eq] at ha hv hsa
  have h : CongruentOperands s u :=
    ⟨by rw [modulus_eq, modulus_eq, hmod], hr, ha, hv, hsa⟩
  obtain ⟨t, t', ht, ht', hsame⟩ := h.exec_agrees i
  exact ⟨t, t', ht, ht', hsame.status, hsame.r⟩

end Sys2Proof.Machine
end

section
/-!
PROOFS. The statements about the state (spec/10_state.md): which registers a command, a write and a step
can change and what they then hold. Everything a command can do to the state is said once (`CommandEnd`),
and so is everything a step can do (`StepEffect`); the statements are read off these two.
-/

namespace Sys2Proof.Machine

/-! ## The registers of a result (R27) -/

/-- The registers of a matrix result are those of the n by n part (R27). -/
theorem mem_matrixRegisters (d : Dim) (k : Fin 9) :
    k.val ∈ resultRegisters.matrixRegisters d.n ↔ InPart d k := by
  unfold InPart
  revert k
  cases d <;> decide

/-- The registers of a vector result are the first n (R27). -/
theorem mem_vectorRegisters (d : Dim) (k : Fin 9) :
    k.val ∈ resultRegisters.vectorRegisters d.n ↔ k.val < d.n := by
  revert k
  cases d <;> decide

/-- The register of a scalar result is R0 (R27). -/
theorem mem_scalarRegisters (k : Fin 9) : k.val ∈ [0] ↔ k = 0 := by
  rw [List.mem_singleton, Fin.ext_iff]
  rfl

/-- Every register of the n by n part is that of an entry (R22, R27). -/
theorem exists_cell_of_inPart {d : Dim} {k : Fin 9} (hk : InPart d k) : ∃ i j, cell d i j = k :=
  ⟨⟨k.val / 3, hk.1⟩, ⟨k.val % 3, hk.2⟩, Fin.ext (Nat.div_add_mod k.val 3)⟩

/-- The register of an entry is in the n by n part (R22, R27). -/
theorem inPart_cell (d : Dim) (i j : Fin d.n) : InPart d (cell d i j) :=
  ⟨(cell_div d i j).symm ▸ i.isLt, (cell_mod d i j).symm ▸ j.isLt⟩

/-! ## What a command does to the state (R26, R27, R157, R158) -/

/-- The R registers `K` hold a result of residues modulo m, the others are as they were (R26, R27). -/
structure ResultWritten (K : List Nat) (m : Nat) (before after : Vector Word 9) : Prop where
  kept : ∀ k : Fin 9, k.val ∉ K → after.get k = before.get k
  residue : ∀ k : Fin 9, k.val ∈ K → (after.get k).toNat < m

/-- Everything a command can do: record an error on the state as it was (R157), or write residues to the
registers of its result and record success (R158). -/
inductive CommandEnd (i : Instr) (s : State) : State → Prop
  | raised (e : CmdError) : CommandEnd i s (raise e s)
  | completed {r : Vector Word 9} (h : ResultWritten (resultRegisters i) s.modulus s.r r) :
    CommandEnd i s (complete { s with r := r })

/-- A number below m survives its register (R26). -/
theorem zext32_toNat_lt {x : Nat} {s : State} (hx : x < s.modulus) :
    (zext32 x).toNat < s.modulus := by
  have hm := modulus_lt s
  rwa [zext32_toNat (by omega)]

theorem writeScalar_resultWritten {x : Nat} {s : State} (hx : x < s.modulus) :
    ResultWritten [0] s.modulus s.r (writeScalar x s).r where
  kept k hk := writeScalar_other x s (mt (mem_scalarRegisters k).2 hk)
  residue k hk := by
    rw [(mem_scalarRegisters k).1 hk, writeScalar_zero]
    exact zext32_toNat_lt hx

theorem writeMatrix_resultWritten {d : Dim} {f : Fin d.n → Fin d.n → Nat} {s : State}
    (hf : ∀ i j, f i j < s.modulus) :
    ResultWritten (resultRegisters.matrixRegisters d.n) s.modulus s.r (writeMatrix d f s).r where
  kept k hk := writeMatrix_other d f s (mt (mem_matrixRegisters d k).2 hk)
  residue k hk := by
    obtain ⟨i, j, rfl⟩ := exists_cell_of_inPart ((mem_matrixRegisters d k).1 hk)
    rw [writeMatrix_cell]
    exact zext32_toNat_lt (hf i j)

theorem writeVector_resultWritten {d : Dim} {f : Fin d.n → Nat} {s : State}
    (hf : ∀ i, f i < s.modulus) :
    ResultWritten (resultRegisters.vectorRegisters d.n) s.modulus s.r (writeVector d f s).r where
  kept k hk := writeVector_other d f s (Nat.le_of_not_lt (mt (mem_vectorRegisters d k).2 hk))
  residue k hk := by
    rw [writeVector_component d f s ⟨k.val, (mem_vectorRegisters d k).1 hk⟩ rfl]
    exact zext32_toNat_lt (hf _)

/-- Every command answers a next state that `CommandEnd` describes. -/
theorem exec_commandEnd (i : Instr) (s : State) : ∃ t, exec i s = .next t ∧ CommandEnd i s t := by
  cases i with
  | det n =>
    obtain ⟨-, h⟩ | ⟨-, -, h⟩ | ⟨hm, d, -, h⟩ := execDet_cases n s
    · exact ⟨_, h, .raised _⟩
    · exact ⟨_, h, .raised _⟩
    · exact ⟨_, h, .completed (writeScalar_resultWritten (red_lt _ hm))⟩
  | modinv =>
    obtain ⟨-, h⟩ | ⟨-, -, h⟩ | ⟨-, x, hx, h⟩ := execModinv_cases s
    · exact ⟨_, h, .raised _⟩
    · exact ⟨_, h, .raised _⟩
    · obtain ⟨-, hlt, -⟩ := minv_eq_some.1 hx
      exact ⟨_, h, .completed (writeScalar_resultWritten hlt)⟩
  | adj n =>
    obtain ⟨-, h⟩ | ⟨-, -, h⟩ | ⟨hm, d, hd, h⟩ := execAdj_cases n s
    · exact ⟨_, h, .raised _⟩
    · exact ⟨_, h, .raised _⟩
    · refine ⟨_, h, .completed ?_⟩
      rw [resultRegisters, (dimOfField_eq_some n d).1 hd]
      exact writeMatrix_resultWritten fun _ _ => red_lt _ hm
  | matinv n =>
    obtain ⟨-, h⟩ | ⟨-, -, h⟩ | ⟨hm, d, hd, h⟩ := execMatinv_cases n s
    · exact ⟨_, h, .raised _⟩
    · exact ⟨_, h, .raised _⟩
    · obtain ⟨-, h⟩ | ⟨-, -, h⟩ | ⟨-, x, -, h⟩ := h
      · exact ⟨_, h, .raised _⟩
      · exact ⟨_, h, .raised _⟩
      · refine ⟨_, h, .completed ?_⟩
        rw [resultRegisters, (dimOfField_eq_some n d).1 hd]
        exact writeMatrix_resultWritten fun _ _ => red_lt _ hm
  | matvec n =>
    obtain ⟨-, h⟩ | ⟨-, -, h⟩ | ⟨hm, d, hd, h⟩ := execMatvec_cases n s
    · exact ⟨_, h, .raised _⟩
    · exact ⟨_, h, .raised _⟩
    · refine ⟨_, h, .completed ?_⟩
      rw [resultRegisters, (dimOfField_eq_some n d).1 hd]
      exact writeVector_resultWritten fun _ => red_lt _ hm

theorem commandEnd_of_exec {i : Instr} {s t : State} (h : exec i s = .next t) :
    CommandEnd i s t := by
  obtain ⟨t', ht', hend⟩ := exec_commandEnd i s
  cases ht'.symm.trans h
  exact hend

/-- No error is recorded as the success status (R157, R158). -/
theorem errorStatus_ne_ok (e : CmdError) : errorStatus e ≠ 0x00000010 := by
  cases e <;> decide

namespace CommandEnd

variable {i : Instr} {s t : State} (h : CommandEnd i s t)

include h

/-- A command changes R and STATUS at most (R36). -/
theorem frame : t = { s with r := t.r, status := t.status } := by
  cases h with
  | raised e => rfl
  | completed hw => rfl

/-- A success has written its result (R27). -/
theorem resultWritten (hok : t.status = 0x00000010) :
    ResultWritten (resultRegisters i) s.modulus s.r t.r := by
  cases h with
  | raised e => exact absurd hok (errorStatus_ne_ok e)
  | completed hw => exact hw

/-- A failure leaves R (R157). -/
theorem r_of_failure (herr : t.status ≠ 0x00000010) : t.r = s.r := by
  cases h with
  | raised e => rfl
  | completed hw => exact absurd okStatus_eq herr

end CommandEnd

/-! ## What a write does to the state (R53) -/

/-- A write to CMD runs a command or records IllegalCommand (R31, R75); any other write is a plain one. -/
theorem regWrite_next_cases {idx : WordIndex} {w : Word} {s t : State}
    (h : regWrite idx w s = .next t) :
    (idx = 0 ∧ ∃ i, decode w = .ok i ∧ CommandEnd i s t) ∨
    (idx = 0 ∧ t = raise .illegalCommand s) ∨
    (idx.toNat ≠ 0 ∧ t = storeRegister idx w s) := by
  by_cases h0 : idx = 0
  · subst h0
    rw [regWrite_command] at h
    cases hw : decode w with
    | ok i =>
      rw [runCommand_ok w s i hw] at h
      exact .inl ⟨rfl, i, rfl, commandEnd_of_exec h⟩
    | error e =>
      cases (runCommand_error w s e hw).symm.trans h
      exact .inr (.inl ⟨rfl, rfl⟩)
  · have hne : idx.toNat ≠ 0 := fun hz => h0 (BitVec.eq_of_toNat_eq hz)
    cases (regWrite_store idx w s hne).symm.trans h
    exact .inr (.inr ⟨hne, rfl⟩)

/-! ## What a step does to the state (R36, R51, R180) -/

/-- Everything a step can do to the block's registers: nothing, a reset, or the write that completes. -/
inductive StepEffect (s t : State) : Prop
  | unchanged (h : SameBlock t s)
  | reset (hreset : ResetNext s) (h : SameBlock t State.reset)
  | write {idx : WordIndex} {w : Word} {rest : List HostAction}
    (hdone : Completes s (.write idx w) rest)
    (h : regWrite idx w { s with script := rest, held := none } = .next t)

/-- The host's own side is no part of the block (R20). -/
theorem sameBlock_hostSide (s : State) (script : List HostAction) (held : Option Transaction)
    (readLog : List Word) :
    SameBlock { s with script := script, held := held, readLog := readLog } s :=
  ⟨rfl, rfl, rfl, rfl, rfl, rfl⟩

theorem SameBlock.trans {s t u : State} (h : SameBlock s t) (h' : SameBlock t u) : SameBlock s u where
  status := h.status.trans h'.status
  mod := h.mod.trans h'.mod
  sa := h.sa.trans h'.sa
  a := h.a.trans h'.a
  v := h.v.trans h'.v
  r := h.r.trans h'.r

/-- What follows an edge happens after its next state. -/
theorem exists_of_andThen_eq_next {o : Host.Outcome State Fault Refusal} {f : State → State}
    {t : State} (h : andThen o f = .next t) : ∃ u, o = .next u ∧ t = f u := by
  cases o with
  | next u =>
    cases h
    exact ⟨u, rfl, rfl⟩
  | fault e => nomatch h
  | refused e => nomatch h

/-- An edge that drives a read changes no register of the block (R52). -/
theorem clockEdge_read_sameBlock {idx : WordIndex} {done : Bool} {s t : State}
    (h : clockEdge (readSignals idx) done s = .next t) : SameBlock t s := by
  obtain ⟨hrst, -⟩ | ⟨-, -, -, hedge⟩ | ⟨-, hreq, -⟩ | ⟨tr, -, -, -, -, hedge⟩ |
    ⟨tr, -, hreq, -, -, hedge⟩ := clockEdge_cases (readSignals idx) done s
  · cases hrst
  · cases hedge.symm.trans h
  · cases hreq
  · cases hedge.symm.trans h
    exact sameBlock_hostSide s _ _ _
  · cases hreq
    cases (hedge.trans (transact_read idx _)).symm.trans h
    exact sameBlock_hostSide s _ _ _

/-- What an edge at which the host drives its own signals does to the block. -/
theorem stepEffect_of_drive {s t : State} {p : PortIn} {done : Bool} {rest : List HostAction}
    (hs : s.script = .drive p done :: rest)
    (h : clockEdge p done { s with script := rest } = .next t) : StepEffect s t := by
  obtain ⟨hrst, hedge⟩ | ⟨-, -, -, hedge⟩ | ⟨-, -, -, hedge⟩ | ⟨tr, -, -, -, -, hedge⟩ |
    ⟨tr, hrst, hreq, hheld, rfl, hedge⟩ := clockEdge_cases p done { s with script := rest }
  · cases hedge.symm.trans h
    exact .reset ⟨p, done, rest, hs, hrst⟩ (sameBlock_hostSide State.reset _ _ _)
  · cases hedge.symm.trans h
  · cases hedge.symm.trans h
    exact .unchanged (sameBlock_hostSide s _ _ _)
  · cases hedge.symm.trans h
    exact .unchanged (sameBlock_hostSide s _ _ _)
  · cases tr with
    | read idx =>
      cases (hedge.trans (transact_read idx _)).symm.trans h
      exact .unchanged (sameBlock_hostSide s _ _ _)
    | write idx w =>
      exact .write ⟨p, hs, hrst, hreq, hheld⟩ ((hedge.trans (transact_write idx w _)).symm.trans h)

/-- A read by the host's script, with whatever it does next to the script, changes no register. -/
theorem stepEffect_of_read {s t : State} {idx : WordIndex} {done : Bool} {rest : List HostAction}
    {f : State → State} (hf : ∀ u, SameBlock (f u) u)
    (h : andThen (clockEdge (readSignals idx) done { s with script := rest }) f = .next t) :
    StepEffect s t := by
  obtain ⟨u, hu, rfl⟩ := exists_of_andThen_eq_next h
  exact .unchanged ((hf u).trans ((clockEdge_read_sameBlock hu).trans (sameBlock_hostSide s _ _ _)))

/-- Every step that answers has one of the effects of `StepEffect`. -/
theorem stepEffect_of_step {s t : State} (h : step s = .next t) : StepEffect s t := by
  cases hs : s.script with
  | nil =>
    cases (step_nil s hs).symm.trans h
    exact .unchanged (sameBlock_hostSide s _ _ _)
  | cons c rest =>
    rw [step_cons s c rest hs] at h
    cases c with
    | drive p done => exact stepEffect_of_drive hs h
    | copy src dst done =>
      refine stepEffect_of_read (fun u => ?_) h
      cases done <;> exact sameBlock_hostSide u _ _ _
    | check done =>
      refine stepEffect_of_read (fun u => ?_) h
      split <;> exact sameBlock_hostSide u _ _ _

/-! ## The invariant (R26, R29, R32, V8) -/

/-- The invariant speaks of the block's registers only. -/
theorem BlockInv.of_sameBlock {s t : State} (hs : BlockInv s) (h : SameBlock t s) : BlockInv t where
  status := h.status ▸ hs.status
  modulus := h.mod ▸ hs.modulus
  results := h.r ▸ hs.results

/-- The status of an error is one of R29's values. -/
theorem legalStatus_errorStatus (e : CmdError) : LegalStatus (errorStatus e) := by
  unfold LegalStatus
  cases e <;> decide

/-- The status of a success is one of R29's values. -/
theorem legalStatus_okStatus : LegalStatus okStatus := .inr (.inl okStatus_eq)

/-- What MOD shows of a word is its lower half (R32). -/
theorem modVisible_toNat (w : Word) : (modVisible w).toNat = w.toNat % 65536 := by
  have hlt : w.toNat % 65536 < 4294967296 := by omega
  simp [modVisible, BitVec.extractLsb'_toNat, Nat.mod_eq_of_lt hlt]

/-- MOD keeps 16 bits (R32). -/
theorem legalModulus_modVisible (w : Word) : LegalModulus (modVisible w) := by
  rw [LegalModulus, modVisible_toNat]
  exact Nat.mod_lt _ (by decide)

theorem BlockInv.raise {s : State} (hs : BlockInv s) (e : CmdError) : BlockInv (raise e s) :=
  ⟨legalStatus_errorStatus e, hs.modulus, hs.results⟩

/-- A result of residues below m is one of values below 65535, since m is at most 65535 (R26). -/
theorem ResultWritten.legalResult {K : List Nat} {s : State} {r : Vector Word 9} (hs : BlockInv s)
    (h : ResultWritten K s.modulus s.r r) (k : Fin 9) : LegalResult (r.get k) := by
  by_cases hk : k.val ∈ K
  · have hlt := h.residue k hk
    have hm := modulus_lt s
    unfold LegalResult
    omega
  · rw [h.kept k hk]
    exact hs.results k

/-- Every command keeps the invariant. -/
theorem CommandEnd.blockInv {i : Instr} {s t : State} (h : CommandEnd i s t) (hs : BlockInv s) :
    BlockInv t := by
  cases h with
  | raised e => exact hs.raise e
  | completed hw => exact ⟨legalStatus_okStatus, hs.modulus, hw.legalResult hs⟩

/-- Every plain write keeps the invariant. -/
theorem BlockInv.storeRegister {s : State} (hs : BlockInv s) (idx : WordIndex) (w : Word) :
    BlockInv (storeRegister idx w s) := by
  obtain ⟨-, h⟩ | ⟨-, h⟩ | ⟨k, -, h⟩ | ⟨k, -, h⟩ | ⟨-, h⟩ := storeRegister_cases idx w s <;> rw [h]
  · exact ⟨hs.status, legalModulus_modVisible w, hs.results⟩
  · exact ⟨hs.status, hs.modulus, hs.results⟩
  · exact ⟨hs.status, hs.modulus, hs.results⟩
  · exact ⟨hs.status, hs.modulus, hs.results⟩
  · exact hs

/-- Every write keeps the invariant. -/
theorem BlockInv.regWrite {idx : WordIndex} {w : Word} {s t : State} (hs : BlockInv s)
    (h : regWrite idx w s = .next t) : BlockInv t := by
  obtain ⟨-, i, -, hend⟩ | ⟨-, rfl⟩ | ⟨-, rfl⟩ := regWrite_next_cases h
  · exact hend.blockInv hs
  · exact hs.raise _
  · exact hs.storeRegister idx w

/-- Settles O48: MOD is 26, and STATUS and R are 0. -/
theorem resetHasInv : Obligations.ResetHasInv where
  status := .inl rfl
  modulus := by unfold LegalModulus; decide
  results := by unfold LegalResult; decide

/-- Settles O49: a step leaves the registers, resets them, or does one write, and each keeps the
invariant. -/
theorem stepKeepsInv : Obligations.StepKeepsInv := by
  intro s t hs h
  cases stepEffect_of_step h with
  | unchanged h => exact hs.of_sameBlock h
  | reset _ h => exact resetHasInv.of_sameBlock h
  | @write _ _ rest _ h =>
    have hu : BlockInv { s with script := rest, held := none } :=
      hs.of_sameBlock (sameBlock_hostSide s _ _ _)
    exact hu.regWrite h

/-! ## The frame of a step (R36) -/

/-- A register of `s` may differ in `t` only if the write that led there was to its index, or, for R, of a
command whose result it belongs to (R27, R36). -/
structure WriteFrame (idx : WordIndex) (w : Word) (s t : State) : Prop where
  mod : t.mod ≠ s.mod → idx.toNat = 2
  sa : t.sa ≠ s.sa → idx.toNat = 3
  a : ∀ k : Fin 9, t.a.get k ≠ s.a.get k → idx.toNat = 4 + k.val
  v : ∀ k : Fin 3, t.v.get k ≠ s.v.get k → idx.toNat = 13 + k.val
  r : ∀ k : Fin 9, t.r.get k ≠ s.r.get k → idx = 0 ∧ ∃ i, decode w = .ok i ∧
    k.val ∈ resultRegisters i ∧ t.status = 0x00000010
  status : t.status ≠ s.status → idx.toNat = 0

/-- A write that changes no register. -/
theorem WriteFrame.refl (idx : WordIndex) (w : Word) (s : State) : WriteFrame idx w s s :=
  ⟨absurd rfl, absurd rfl, fun _ => absurd rfl, fun _ => absurd rfl, fun _ => absurd rfl, absurd rfl⟩

/-- A write to one register of a file leaves the others. -/
theorem get_set_of_ne {n : Nat} {x : Vector Word n} {j k : Fin n} (w : Word) (h : j.val ≠ k.val) :
    (x.set j.val w).get k = x.get k := by
  simp [Vector.get_eq_getElem, h]

/-- A write to one register of a file can be read back. -/
theorem get_set_same {n : Nat} (x : Vector Word n) (k : Fin n) (w : Word) :
    (x.set k.val w).get k = w := by
  simp [Vector.get_eq_getElem]

/-- An error recorded by a write to CMD changes STATUS alone (R157). -/
theorem raise_writeFrame (e : CmdError) (w : Word) (s : State) : WriteFrame 0 w s (raise e s) :=
  ⟨absurd rfl, absurd rfl, fun _ => absurd rfl, fun _ => absurd rfl, fun _ => absurd rfl, fun _ => rfl⟩

/-- A command changes STATUS and, when it succeeds, its result (R27, R36). -/
theorem CommandEnd.writeFrame {i : Instr} {w : Word} {s t : State} (h : CommandEnd i s t)
    (hw : decode w = .ok i) : WriteFrame 0 w s t := by
  cases h with
  | raised e => exact raise_writeFrame e w s
  | completed hr =>
    refine { WriteFrame.refl 0 w s with status := fun _ => rfl, r := fun k hk => ?_ }
    exact ⟨rfl, i, hw, not_imp_comm.1 (hr.kept k) hk, okStatus_eq⟩

/-- A plain write changes the operand register of its index, or MOD (R53). -/
theorem storeRegister_writeFrame (idx : WordIndex) (w : Word) (s : State) :
    WriteFrame idx w s (storeRegister idx w s) := by
  obtain ⟨hi, h⟩ | ⟨hi, h⟩ | ⟨j, hi, h⟩ | ⟨j, hi, h⟩ | ⟨-, h⟩ := storeRegister_cases idx w s <;> rw [h]
  · exact { WriteFrame.refl idx w s with mod := fun _ => hi }
  · exact { WriteFrame.refl idx w s with sa := fun _ => hi }
  · refine { WriteFrame.refl idx w s with a := fun k hk => ?_ }
    exact not_imp_comm.1 (get_set_of_ne w) hk ▸ hi
  · refine { WriteFrame.refl idx w s with v := fun k hk => ?_ }
    exact not_imp_comm.1 (get_set_of_ne w) hk ▸ hi
  · exact WriteFrame.refl idx w s

/-- Every write keeps to its frame. -/
theorem regWrite_writeFrame {idx : WordIndex} {w : Word} {s t : State}
    (h : regWrite idx w s = .next t) : WriteFrame idx w s t := by
  obtain ⟨rfl, i, hw, hend⟩ | ⟨rfl, rfl⟩ | ⟨-, rfl⟩ := regWrite_next_cases h
  · exact hend.writeFrame hw
  · exact raise_writeFrame _ w s
  · exact storeRegister_writeFrame idx w s

/-- A reset is a cause of a change of any register (R36). -/
theorem ResetNext.resetOrWrite {s : State} (h : ResetNext s) (idx : Nat) : ResetOrWrite s idx := by
  obtain ⟨p, done, rest, hd, hrst⟩ := h
  exact ⟨p, done, rest, hd, .inl hrst⟩

/-- A write that completes is a cause of a change of the register of its index (R36). -/
theorem Completes.resetOrWrite {s : State} {idx : WordIndex} {w : Word} {rest : List HostAction}
    (h : Completes s (.write idx w) rest) {k : Nat} (hk : idx.toNat = k) : ResetOrWrite s k := by
  obtain ⟨p, hd, hrst, hreq, -⟩ := h
  exact ⟨p, true, rest, hd, .inr ⟨hrst, rfl, idx, w, hreq, hk⟩⟩

/-- Settles O37: a step leaves the registers, resets them, or does one write, which keeps to its
frame. -/
theorem registersChangeOnlyByTheirCauses : Obligations.RegistersChangeOnlyByTheirCauses := by
  intro s t h
  cases stepEffect_of_step h with
  | unchanged h =>
    obtain ⟨hstatus, hmod, hsa, ha, hv, hr⟩ := h
    exact ⟨absurd hmod, absurd hsa, fun k => absurd (ha ▸ rfl), fun k => absurd (hv ▸ rfl),
      fun k => absurd (hr ▸ rfl), absurd hstatus⟩
  | reset hreset =>
    exact ⟨fun _ => hreset.resetOrWrite _, fun _ => hreset.resetOrWrite _,
      fun _ _ => hreset.resetOrWrite _, fun _ _ => hreset.resetOrWrite _, fun _ _ => .inl hreset,
      fun _ => hreset.resetOrWrite _⟩
  | @write idx w rest hdone h =>
    have hframe := regWrite_writeFrame h
    refine ⟨fun hne => hdone.resetOrWrite (hframe.mod hne),
      fun hne => hdone.resetOrWrite (hframe.sa hne),
      fun k hne => hdone.resetOrWrite (hframe.a k hne),
      fun k hne => hdone.resetOrWrite (hframe.v k hne), fun k hne => ?_,
      fun hne => hdone.resetOrWrite (hframe.status hne)⟩
    obtain ⟨rfl, i, hw, hk, hok⟩ := hframe.r k hne
    exact .inr ⟨w, i, rest, hdone, hw, hk, hok⟩

/-! ## The frame and the range of a command (R26, R27, R36) -/

/-- Settles O14: a command that succeeds has written its result alone, one that fails leaves R. -/
theorem successWritesOnlyItsResult : Obligations.SuccessWritesOnlyItsResult := by
  intro i s
  obtain ⟨t, ht, hend⟩ := exec_commandEnd i s
  refine ⟨t, ht, fun hok => ?_, hend.r_of_failure⟩
  refine ⟨hok ▸ hend.frame, ?_, ?_, (hend.resultWritten hok).kept⟩ <;> rw [hok] <;> decide

/-- Settles O25: results are residues, and MODINV's is found in 1..m-1. -/
theorem resultsAreResidues : Obligations.ResultsAreResidues := by
  constructor
  · intro i s t h hok k hk
    rw [← modulus_eq]
    exact ((commandEnd_of_exec h).resultWritten hok).residue k hk
  · intro s t h hok
    obtain ⟨-, hexec⟩ | ⟨-, -, hexec⟩ | ⟨-, x, hx, hexec⟩ := execModinv_cases s <;>
      cases hexec.symm.trans h
    · exact absurd hok (errorStatus_ne_ok _)
    · exact absurd hok (errorStatus_ne_ok _)
    · obtain ⟨hpos, hlt, -⟩ := minv_eq_some.1 hx
      have hm := modulus_lt s
      rwa [complete_r, writeScalar_zero, zext32_toNat (by omega)]

/-- What the port shows of another index than STATUS's and R's depends on neither (R52). -/
theorem regRead_of_not_result {idx : WordIndex} (s : State) (x : Word) (r : Vector Word 9)
    (h1 : idx.toNat ≠ 1) (hr : ¬(16 ≤ idx.toNat ∧ idx.toNat ≤ 24)) :
    regRead idx { s with r := r, status := x } = regRead idx s := by
  simp [regRead, h1, hr]

/-- Settles O29: R and STATUS are all that a command changes. -/
theorem commandsLeaveOperands : Obligations.CommandsLeaveOperands := by
  intro i s
  obtain ⟨t, ht, hend⟩ := exec_commandEnd i s
  have hframe := hend.frame
  generalize t.r = r, t.status = x at hframe
  subst hframe
  exact ⟨_, ht, rfl, rfl, rfl, rfl, rfl, rfl, rfl, fun idx => regRead_of_not_result s x r⟩

/-! ## A command reads its operands alone (R22, R23, R24) -/

/-- Two states show the same STATUS and, after a success, the same registers `K` of R. -/
structure SameResult (K : List Nat) (t t' : State) : Prop where
  status : t'.status = t.status
  result : t.status = 0x00000010 → ∀ k : Fin 9, k.val ∈ K → t'.r.get k = t.r.get k

/-- Two ends of a command agree on `K`: the same error, or results with the same registers `K`. -/
inductive SameEndOn (K : List Nat) : Except CmdError State → Except CmdError State → Prop
  | ok {t t' : State} (h : ∀ k : Fin 9, k.val ∈ K → t'.r.get k = t.r.get k) :
    SameEndOn K (.ok t) (.ok t')
  | error (e : CmdError) : SameEndOn K (.error e) (.error e)

/-- A command answers in both states, with the same STATUS and result. -/
def ExecAgreesOnResult (i : Instr) (s u : State) : Prop :=
  ∃ t t', exec i s = .next t ∧ exec i u = .next t' ∧ SameResult (resultRegisters i) t t'

section Agreement

variable {K : List Nat} {s u : State}

/-- Ends that agree show the same STATUS and result (R157, R158). -/
theorem finish_sameResult {x y : Except CmdError State} (h : SameEndOn K x y) :
    SameResult K (finish s x) (finish u y) := by
  cases h with
  | ok h => exact ⟨rfl, fun _ => h⟩
  | error e => exact ⟨rfl, fun hok => absurd hok (errorStatus_ne_ok e)⟩

/-- With one modulus, commands whose bodies agree show the same result (R74). -/
theorem withModulus_sameResult (hmod : u.modulus = s.modulus)
    {body body' : Nat → Except CmdError State} (h : SameEndOn K (body s.modulus) (body' s.modulus)) :
    SameResult K (withModulus s body) (withModulus u body') := by
  unfold withModulus
  rw [hmod]
  split
  · exact finish_sameResult (.error _)
  · exact finish_sameResult h

/-- The same for sized commands (R74). -/
theorem withSize_sameResult (n : BitVec 4) (hmod : u.modulus = s.modulus)
    {body body' : Dim → Nat → Except CmdError State}
    (h : ∀ d, n.toNat = d.n → SameEndOn K (body d s.modulus) (body' d s.modulus)) :
    SameResult K (withSize n s body) (withSize n u body') := by
  refine withModulus_sameResult hmod ?_
  cases hd : dimOfField n with
  | none => exact .error _
  | some d => exact h d ((dimOfField_eq_some n d).1 hd)

/-- One number written to R0 of two states (R27). -/
theorem writeScalar_sameEndOn (x : Nat) :
    SameEndOn [0] (.ok (writeScalar x s)) (.ok (writeScalar x u)) :=
  .ok fun k hk => by rw [(mem_scalarRegisters k).1 hk, writeScalar_zero, writeScalar_zero]

/-- One matrix written to R of two states (R27). -/
theorem writeMatrix_sameEndOn (d : Dim) (f : Fin d.n → Fin d.n → Nat) :
    SameEndOn (resultRegisters.matrixRegisters d.n) (.ok (writeMatrix d f s))
      (.ok (writeMatrix d f u)) :=
  .ok fun k hk => by
    obtain ⟨i, j, rfl⟩ := exists_cell_of_inPart ((mem_matrixRegisters d k).1 hk)
    rw [writeMatrix_cell, writeMatrix_cell]

/-- One vector written to R of two states (R27). -/
theorem writeVector_sameEndOn (d : Dim) (f : Fin d.n → Nat) :
    SameEndOn (resultRegisters.vectorRegisters d.n) (.ok (writeVector d f s))
      (.ok (writeVector d f u)) :=
  .ok fun k hk => by
    have hlt := (mem_vectorRegisters d k).1 hk
    rw [writeVector_component d f s ⟨k.val, hlt⟩ rfl, writeVector_component d f u ⟨k.val, hlt⟩ rfl]

/-- MODINV looks at MOD and SA (R24). -/
theorem modinv_agreesOnResult (hmod : u.modulus = s.modulus) (hsa : u.scalar = s.scalar) :
    ExecAgreesOnResult .modinv s u := by
  refine ⟨_, _, rfl, rfl, withModulus_sameResult hmod ?_⟩
  rw [hsa]
  cases minv s.scalar s.modulus with
  | none => exact .error _
  | some x => exact writeScalar_sameEndOn x

variable {n : BitVec 4} (hmod : u.modulus = s.modulus)
  (hA : ∀ d : Dim, n.toNat = d.n → u.matrix d = s.matrix d)

include hmod hA

/-- DET n looks at MOD and the n by n part of A (R22). -/
theorem det_agreesOnResult : ExecAgreesOnResult (.det n) s u := by
  refine ⟨_, _, rfl, rfl, withSize_sameResult n hmod fun d hd => ?_⟩
  rw [hA d hd]
  exact writeScalar_sameEndOn _

/-- ADJ n looks at MOD and the n by n part of A (R22). -/
theorem adj_agreesOnResult : ExecAgreesOnResult (.adj n) s u := by
  refine ⟨_, _, rfl, rfl, withSize_sameResult n hmod fun d hd => ?_⟩
  rw [hA d hd, resultRegisters, hd]
  exact writeMatrix_sameEndOn d _

/-- MATINV n looks at MOD and the n by n part of A (R22). -/
theorem matinv_agreesOnResult : ExecAgreesOnResult (.matinv n) s u := by
  refine ⟨_, _, rfl, rfl, withSize_sameResult n hmod fun d hd => ?_⟩
  rw [hA d hd]
  split
  · exact .error _
  cases minv (red (determinant d (s.matrix d)) s.modulus) s.modulus with
  | none => exact .error _
  | some x =>
    rw [resultRegisters, hd]
    exact writeMatrix_sameEndOn d _

/-- MATVEC n looks at MOD, the n by n part of A and the first n components of V (R22, R23). -/
theorem matvec_agreesOnResult (hV : ∀ d : Dim, n.toNat = d.n → u.vector d = s.vector d) :
    ExecAgreesOnResult (.matvec n) s u := by
  refine ⟨_, _, rfl, rfl, withSize_sameResult n hmod fun d hd => ?_⟩
  rw [hA d hd, hV d hd, resultRegisters, hd]
  exact writeVector_sameEndOn d _

end Agreement

/-- The matrix a command of size n reads is the n by n part of A (R22). -/
theorem matrix_eq_of_inPart {s u : State} {d : Dim}
    (h : ∀ k, InPart d k → u.a.get k = s.a.get k) : u.matrix d = s.matrix d :=
  funext₂ fun i j => congrArg sint (h _ (inPart_cell d i j))

/-- The vector MATVEC n reads is the first n components of V (R23). -/
theorem vector_eq_of_lt {s u : State} {d : Dim}
    (h : ∀ j : Fin 3, j.val < d.n → u.v.get j = s.v.get j) : u.vector d = s.vector d :=
  funext fun j => congrArg sint (h (component d j) j.isLt)

/-- Settles O27: the bodies of a command are the same in both states, but for the R they write into. -/
theorem otherRegistersAreIgnored : Obligations.OtherRegistersAreIgnored := by
  intro i s u hmod hA hV hSA
  have hm : u.modulus = s.modulus := by rw [modulus_eq, modulus_eq, hmod]
  have hagree : ExecAgreesOnResult i s u := by
    cases i with
    | det n =>
      exact det_agreesOnResult hm fun d hd =>
        matrix_eq_of_inPart fun k => hA n d k (.inl rfl) hd
    | modinv => exact modinv_agreesOnResult hm (congrArg sint (hSA rfl))
    | adj n =>
      exact adj_agreesOnResult hm fun d hd =>
        matrix_eq_of_inPart fun k => hA n d k (.inr (.inl rfl)) hd
    | matinv n =>
      exact matinv_agreesOnResult hm fun d hd =>
        matrix_eq_of_inPart fun k => hA n d k (.inr (.inr (.inl rfl))) hd
    | matvec n =>
      exact matvec_agreesOnResult hm
        (fun d hd => matrix_eq_of_inPart fun k => hA n d k (.inr (.inr (.inr rfl))) hd)
        fun d hd => vector_eq_of_lt fun j => hV n d j rfl hd
  obtain ⟨t, t', ht, ht', hsame⟩ := hagree
  exact ⟨t, t', ht, ht', hsame.status, hsame.result⟩

/-- Settles O28: the first run leaves the operands, so the second ends with the same STATUS and result,
and leaves the other registers of R. -/
theorem repeatedCommandIsIdempotent : Obligations.RepeatedCommandIsIdempotent := by
  intro i s
  obtain ⟨t, ht, hmod, hsa, ha, hv, -⟩ := commandsLeaveOperands i s
  obtain ⟨_, t₂, ht₁, ht₂, hstatus, hresult⟩ := otherRegistersAreIgnored i s t hmod
    (fun _ _ k _ _ _ => by rw [ha]) (fun _ _ j _ _ _ => by rw [hv]) fun _ => hsa
  cases ht₁.symm.trans ht
  have hend := commandEnd_of_exec ht₂
  have hr : t₂.r = t.r := by
    by_cases hok : t.status = 0x00000010
    · refine nine_ext fun k => ?_
      by_cases hk : k.val ∈ resultRegisters i
      · exact hresult hok k hk
      · exact (hend.resultWritten (hstatus.trans hok)).kept k hk
    · exact hend.r_of_failure (hstatus ▸ hok)
  have heq : t₂ = t := by rw [hend.frame, hr, hstatus]
  exact ⟨t, ht, heq ▸ ht₂⟩

/-! ## Reading back what was written (R25, R32, R59) -/

section OtherIndices

variable {idx : WordIndex} (s : State) (w : Word)

/-- A change of MOD shows at index 2 alone (R52). -/
theorem regRead_setMod (h : idx.toNat ≠ 2) : regRead idx { s with mod := w } = regRead idx s := by
  simp [regRead, h]

/-- A change of SA shows at index 3 alone (R52). -/
theorem regRead_setSa (h : idx.toNat ≠ 3) : regRead idx { s with sa := w } = regRead idx s := by
  simp [regRead, h]

/-- A change of A[k] shows at index 4 + k alone (R52). -/
theorem regRead_setA (k : Fin 9) (h : idx.toNat ≠ 4 + k.val) :
    regRead idx { s with a := s.a.set k.val w } = regRead idx s := by
  by_cases hi : 4 ≤ idx.toNat ∧ idx.toNat ≤ 12
  · have hj : idx.toNat = 4 + (⟨idx.toNat - 4, by omega⟩ : Fin 9).val := by simp; omega
    rw [regRead_a idx _ _ hj, regRead_a idx _ _ hj]
    exact get_set_of_ne w (by omega)
  · simp [regRead, hi]

/-- A change of V[k] shows at index 13 + k alone (R52). -/
theorem regRead_setV (k : Fin 3) (h : idx.toNat ≠ 13 + k.val) :
    regRead idx { s with v := s.v.set k.val w } = regRead idx s := by
  by_cases hi : 13 ≤ idx.toNat ∧ idx.toNat ≤ 15
  · have hj : idx.toNat = 13 + (⟨idx.toNat - 13, by omega⟩ : Fin 3).val := by simp; omega
    rw [regRead_v idx _ _ hj, regRead_v idx _ _ hj]
    exact get_set_of_ne w (by omega)
  · simp [regRead, hi]

end OtherIndices

/-- A read of SA (R52). -/
theorem regRead_sa (idx : WordIndex) (s : State) (h : idx.toNat = 3) : regRead idx s = s.sa := by
  simp [regRead, h]

/-- Settles O33: the write changes the one register that its index shows. -/
theorem operandReadsBackWhatWasWritten : Obligations.OperandReadsBackWhatWasWritten := by
  intro s idx w hlo hhi
  have hother : ∀ other : WordIndex, other ≠ idx → other.toNat ≠ idx.toNat := fun _ =>
    mt BitVec.eq_of_toNat_eq
  refine ⟨_, regWrite_store idx w s (by omega), ?_⟩
  obtain ⟨hi, -⟩ | ⟨hi, h⟩ | ⟨k, hi, h⟩ | ⟨k, hi, h⟩ | ⟨hi, -⟩ := storeRegister_cases idx w s
  · omega
  · rw [h]
    exact ⟨regRead_sa idx _ hi, fun other ho => regRead_setSa s w (hi ▸ hother other ho)⟩
  · rw [h, regRead_a idx _ k hi]
    exact ⟨get_set_same s.a k w, fun other ho => regRead_setA s w k (hi ▸ hother other ho)⟩
  · rw [h, regRead_v idx _ k hi]
    exact ⟨get_set_same s.v k w, fun other ho => regRead_setV s w k (hi ▸ hother other ho)⟩
  · omega

/-- A write to MOD (R32). -/
theorem regWrite_mod (w : Word) (s : State) :
    regWrite 2 w s = .next { s with mod := modVisible w } := rfl

/-- Settles O34: MOD holds the lower half, and a read of MOD shows the lower half of that. -/
theorem modKeepsTheLowerHalf : Obligations.ModKeepsTheLowerHalf := by
  intro s w
  refine ⟨_, regWrite_mod w s, modVisible_toNat w, ?_, fun other ho => ?_⟩
  · calc (modVisible (modVisible w)).toNat
        = w.toNat % 65536 % 65536 := by rw [modVisible_toNat, modVisible_toNat]
      _ = w.toNat % 65536 := Nat.mod_mod _ _
  · exact regRead_setMod s _ fun h => ho (BitVec.eq_of_toNat_eq h)

/-! ## CMD and the reset values (R31, R37) -/

/-- CMD reads 0 (R31). -/
theorem regRead_cmd (s : State) : regRead 0 s = 0x00000000 := rfl

/-- Settles O35: CMD reads 0, and a write to it runs the decoded command. -/
theorem cmdRunsTheWord : Obligations.CmdRunsTheWord :=
  ⟨regRead_cmd, fun w s i hw => (regWrite_command w s).trans (runCommand_ok w s i hw)⟩

/-- Settles O45: reset fills every register but MOD with 0. -/
theorem resetValues : Obligations.ResetValues :=
  ⟨rfl, rfl, rfl, Vector.get_replicate 9 0, Vector.get_replicate 3 0, Vector.get_replicate 9 0,
    regRead_cmd State.reset⟩

end Sys2Proof.Machine
end

section
/-!
PROOFS. The statements about the host register port (spec/20_memory.md): what a read shows of each index
(R52), what a write does to it (R53, R55, R56), and what an edge does to the request the host holds (R50,
R51, V2). A transaction that completes is `transact` in every case (`Completes.step_eq`).
-/

namespace Sys2Proof.Machine

/-! ## What a read shows of each index (R52) -/

/-- What STATUS shows of a word is its low five bits (R29). -/
theorem statusVisible_toNat (w : Word) : (statusVisible w).toNat = w.toNat % 32 := by
  have hlt : w.toNat % 32 < 4294967296 := by omega
  simp [statusVisible, BitVec.extractLsb'_toNat, Nat.mod_eq_of_lt hlt]

/-- A read of STATUS (R52). -/
theorem regRead_status (idx : WordIndex) (s : State) (h : idx.toNat = 1) :
    regRead idx s = statusVisible s.status := by
  simp [regRead, h]

/-- A read of MOD (R52). -/
theorem regRead_mod (idx : WordIndex) (s : State) (h : idx.toNat = 2) :
    regRead idx s = modVisible s.mod := by
  simp [regRead, h]

/-- A read of a reserved index (R56). -/
theorem regRead_reserved (idx : WordIndex) (s : State) (h : 25 ≤ idx.toNat) :
    regRead idx s = 0x00000000 := by
  simp only [regRead]
  rw [if_neg (by omega), if_neg (by omega), if_neg (by omega), if_neg (by omega),
    dif_neg (by omega), dif_neg (by omega), dif_neg (by omega)]

/-! ## What a plain write does to each index (R53) -/

/-- MOD stores the lower half of the word written (R32). -/
theorem modVisible_eq_ofNat (w : Word) : modVisible w = BitVec.ofNat 32 (w.toNat % 65536) := by
  rw [← modVisible_toNat, BitVec.ofNat_toNat, BitVec.setWidth_eq]

section PlainWrites

variable {idx : WordIndex} (w : Word) (s : State)

/-- A plain write to MOD (R32). -/
theorem storeRegister_mod (h : idx.toNat = 2) :
    storeRegister idx w s = { s with mod := modVisible w } := by
  simp [storeRegister, h]

/-- A plain write to SA (R24). -/
theorem storeRegister_sa (h : idx.toNat = 3) : storeRegister idx w s = { s with sa := w } := by
  simp [storeRegister, h]

/-- A plain write to an A register (R22). -/
theorem storeRegister_a (k : Fin 9) (h : idx.toNat = 4 + k.val) :
    storeRegister idx w s = { s with a := s.a.set k.val w } := by
  obtain ⟨hi, -⟩ | ⟨hi, -⟩ | ⟨j, hi, hj⟩ | ⟨j, hi, -⟩ | ⟨hi, -⟩ := storeRegister_cases idx w s
  case inr.inr.inl =>
    obtain rfl : j = k := Fin.ext (by omega)
    exact hj
  all_goals omega

/-- A plain write to a V register (R23). -/
theorem storeRegister_v (k : Fin 3) (h : idx.toNat = 13 + k.val) :
    storeRegister idx w s = { s with v := s.v.set k.val w } := by
  obtain ⟨hi, -⟩ | ⟨hi, -⟩ | ⟨j, hi, -⟩ | ⟨j, hi, hj⟩ | ⟨hi, -⟩ := storeRegister_cases idx w s
  case inr.inr.inr.inl =>
    obtain rfl : j = k := Fin.ext (by omega)
    exact hj
  all_goals omega

/-- A plain write to STATUS, to an R register or to a reserved index is ignored (R55, R56). -/
theorem storeRegister_ignored (h : idx.toNat = 1 ∨ 16 ≤ idx.toNat) : storeRegister idx w s = s := by
  obtain ⟨hi, -⟩ | ⟨hi, -⟩ | ⟨j, hi, -⟩ | ⟨j, hi, -⟩ | ⟨-, hs⟩ := storeRegister_cases idx w s
  case inr.inr.inr.inr => exact hs
  all_goals omega

end PlainWrites

/-! ## What the outputs show (R50) -/

/-- A cycle carries a request exactly when `req` = 1 (R50). -/
theorem request_eq_none_iff (p : PortIn) : p.request = none ↔ p.req = false := by
  cases hreq : p.req <;> simp [PortIn.request, hreq]

/-- The request of a cycle with `req` = 1 and `we` = 0 is a read (R50). -/
theorem request_read {p : PortIn} (hreq : p.req = true) (hwe : p.we = false) :
    p.request = some (.read p.addr) := by
  simp [PortIn.request, hreq, hwe]

/-- The request of a cycle with `req` = 1 and `we` = 1 is a write (R50). -/
theorem request_write {p : PortIn} (hreq : p.req = true) (hwe : p.we = true) :
    p.request = some (.write p.addr p.wdata) := by
  simp [PortIn.request, hreq, hwe]

/-- A request that the block is done with is acknowledged; `rdata` shows the word of a read (R50, R52). -/
theorem portOut_acknowledged {p : PortIn} (s : State) (hrst : p.rst = false) (hreq : p.req = true) :
    portOut p true s =
      { ack := true, rdata := if p.we then none else some (regRead p.addr s) } := by
  cases hwe : p.we <;> simp [portOut, hrst, hreq, hwe]

/-- Before the block is done, and without a request, the outputs show nothing (R50, R51). -/
theorem portOut_unacknowledged {p : PortIn} {done : Bool} (s : State)
    (h : done = false ∨ p.req = false) : portOut p done s = { ack := false, rdata := none } := by
  obtain h | h := h <;> simp [portOut, h]

/-! ## Transactions that complete (R52, R53, R55, R56) -/

/-- The step at which a transaction completes is the transaction, with the action off the script and the
request released (R51). -/
theorem Completes.step_eq {s : State} {t : Transaction} {rest : List HostAction}
    (h : Completes s t rest) : step s = transact t { s with script := rest, held := none } := by
  obtain ⟨p, hd, hrst, hreq, hheld⟩ := h
  exact step_transact hd hrst hreq hheld

/-- The step at which a write to another index than CMD completes is a plain write (R53). -/
theorem Completes.step_store {s : State} {idx : WordIndex} {w : Word} {rest : List HostAction}
    (h : Completes s (.write idx w) rest) (hi : idx.toNat ≠ 0) :
    step s = .next (storeRegister idx w { s with script := rest, held := none }) :=
  h.step_eq.trans (regWrite_store idx w _ hi)

/-- Settles O30: the word that the log gains is `regRead`'s, which has an equation for each index. -/
theorem readsReturnTheTable : Obligations.ReadsReturnTheTable := by
  intro s idx rest h
  refine ⟨regRead idx s, h.step_eq, fun hi => ?_, fun hi => ?_, fun hi => ?_, regRead_sa idx s,
    regRead_a idx s, regRead_v idx s, regRead_r idx s, regRead_reserved idx s⟩
  · obtain rfl : idx = 0 := BitVec.eq_of_toNat_eq hi
    exact regRead_cmd s
  · rw [regRead_status idx s hi, statusVisible_toNat]
  · rw [regRead_mod idx s hi, modVisible_toNat]

/-- Settles O31: a write to CMD runs its word, any other is a plain write, which has an equation for
each index. -/
theorem writesHaveTheTablesEffect : Obligations.WritesHaveTheTablesEffect := by
  intro s idx w rest h u
  have hstore : ∀ t, idx.toNat ≠ 0 → storeRegister idx w u = t → step s = .next t :=
    fun t hi ht => ht ▸ h.step_store hi
  refine ⟨fun hi => ?_, fun hi => hstore _ (by omega) (storeRegister_ignored w u (.inl hi)),
    fun hi => hstore _ (by omega) ?_, fun hi => hstore _ (by omega) (storeRegister_sa w u hi),
    fun k hi => hstore _ (by omega) (storeRegister_a w u k hi),
    fun k hi => hstore _ (by omega) (storeRegister_v w u k hi),
    fun hi => hstore _ (by omega) (storeRegister_ignored w u (.inr hi))⟩
  · obtain rfl : idx = 0 := BitVec.eq_of_toNat_eq hi
    exact h.step_eq.trans (regWrite_command w u)
  · rw [storeRegister_mod w u hi, modVisible_eq_ofNat]

/-- Settles O32: the write completes as a plain write that is ignored, its request is acknowledged, and
`regRead` gives 0 from index 25 on. -/
theorem readOnlyAndReservedIndices : Obligations.ReadOnlyAndReservedIndices := by
  refine ⟨fun s p w idx rest hd hrst hreq hheld hi => ⟨?_, ?_⟩, fun s idx => regRead_reserved idx s⟩
  · have hdone : Completes s (.write idx w) rest := ⟨p, hd, hrst, hreq, hheld⟩
    rw [hdone.step_store (by omega), storeRegister_ignored w _ hi]
  · have hp : p.req = true := by
      rw [← Bool.not_eq_false, ← request_eq_none_iff, hreq]
      exact Option.some_ne_none _
    rw [portOut_acknowledged s hrst hp]

/-- No write to an index touches the host's read log (R53). -/
theorem regWrite_readLog {idx : WordIndex} {w : Word} {s t : State}
    (h : regWrite idx w s = .next t) : t.readLog = s.readLog := by
  obtain ⟨-, i, -, hend⟩ | ⟨-, rfl⟩ | ⟨-, rfl⟩ := regWrite_next_cases h
  · rw [hend.frame]
  · exact raise_readLog _ s
  · obtain ⟨-, h⟩ | ⟨-, h⟩ | ⟨_, -, h⟩ | ⟨_, -, h⟩ | ⟨-, h⟩ := storeRegister_cases idx w s <;> rw [h]

/-- Settles O39: the log gains the word of a read, which `rdata` shows, and nothing from a write. -/
theorem readDataMatchesTheLog : Obligations.ReadDataMatchesTheLog := by
  intro s p rest hd hrst hreq hheld
  rw [portOut_acknowledged s hrst hreq]
  refine ⟨rfl, fun hwe => by simp [hwe], fun hwe => by simp [hwe], ?_⟩
  cases hwe : p.we with
  | false =>
    rw [request_read hreq hwe] at hheld
    exact ⟨_, step_transact hd hrst (request_read hreq hwe) hheld, rfl⟩
  | true =>
    rw [request_write hreq hwe] at hheld
    have hstep := step_transact hd hrst (request_write hreq hwe) hheld
    obtain ⟨t, ht⟩ := transact_answers (.write p.addr p.wdata) { s with script := rest, held := none }
    exact ⟨t, hstep.trans ht, (regWrite_readLog ht).trans (List.append_nil _).symm⟩

/-! ## Before `ack`, and where the handshake breaks (R51, R186, V2) -/

/-- An edge at which nothing completes only records what the host requests (R51). -/
theorem clockEdge_pending {p : PortIn} {done : Bool} {s : State} (hrst : p.rst = false)
    (hheld : s.held = none ∨ s.held = p.request) (h : done = false ∨ p.req = false) :
    clockEdge p done s = .next { s with held := p.request } := by
  cases hreq : p.request with
  | none =>
    have hnone : s.held = none := by simpa [hreq] using hheld
    rw [clockEdge_idle p done s hrst hreq hnone, ← hnone]
  | some t =>
    have hdone : done = false := h.resolve_right fun hf => by
      simp [(request_eq_none_iff p).2 hf] at hreq
    rw [hdone, clockEdge_wait p s t hrst hreq (hreq ▸ hheld)]

/-- After an edge that answers, a host action goes on from the next state. -/
theorem andThen_of_next {o : Host.Outcome State Fault Refusal} {u : State} (f : State → State)
    (h : o = .next u) : andThen o f = .next (f u) := h ▸ andThen_next u f

/-- After an edge that is refused, a host action is refused. -/
theorem andThen_of_refused {o : Host.Outcome State Fault Refusal} {e : Refusal} (f : State → State)
    (h : o = .refused e) : andThen o f = .refused e := h ▸ andThen_refused e f

/-- A copy whose read waits only records that read as held (R51). -/
theorem hostCycle_copy_wait {s : State} {src dst : WordIndex}
    (hheld : s.held = none ∨ s.held = some (.read src)) :
    hostCycle (.copy src dst false) s = .next { s with held := some (.read src) } :=
  andThen_of_next _ (clockEdge_wait (readSignals src) s (.read src) rfl rfl hheld)

/-- A check whose read of STATUS waits only records that read as held (R51). -/
theorem hostCycle_check_wait {s : State} (hheld : s.held = none ∨ s.held = some (.read 1)) :
    hostCycle (.check false) s = .next { s with held := some (.read 1) } :=
  andThen_of_next _ (clockEdge_wait (readSignals 1) s (.read 1) rfl rfl hheld)

/-- Settles O38: an edge at which nothing completes records the request, be it driven or an action's own
read, and shows nothing. -/
theorem nothingChangesBeforeAck : Obligations.NothingChangesBeforeAck := by
  constructor
  · intro s p done rest hd hrst hheld h
    exact ⟨(step_driven hd).trans (clockEdge_pending hrst hheld h), portOut_unacknowledged s h⟩
  · rintro s src rest hheld (⟨dst, hs⟩ | ⟨rfl, hs⟩)
    · exact (step_cons s _ rest hs).trans (hostCycle_copy_wait hheld)
    · exact (step_cons s _ rest hs).trans (hostCycle_check_wait hheld)

/-- An action that does not drive the request held, and no reset, is refused: a copy and a check drive
their read (V2). -/
theorem hostCycle_refused {c : HostAction} {s : State} {t : Transaction} (hheld : s.held = some t)
    (hrst : c.signals.rst = false) (hne : c.signals.request ≠ some t) :
    hostCycle c s = .refused .portProtocol := by
  have hedge : ∀ done, clockEdge c.signals done s = .refused .portProtocol := fun done =>
    clockEdge_violation c.signals done s hrst (hheld ▸ Option.some_ne_none t) (hheld ▸ hne.symm)
  cases c with
  | drive p done => exact hedge done
  | copy src dst done => exact andThen_of_refused _ (hedge done)
  | check done => exact andThen_of_refused _ (hedge done)

/-- Settles O40: the step is its action, and each of the three actions is refused where its signals
break the handshake. -/
theorem brokenHandshakeIsRefused : Obligations.BrokenHandshakeIsRefused := by
  intro s t rest hheld
  have hread : ∀ idx, t ≠ .read idx → (readSignals idx).request ≠ some t :=
    fun idx hne h => hne (Option.some.inj h).symm
  refine ⟨fun p done hd hrst hne => ?_, fun src dst done hs hne => ?_, fun done hs hne => ?_⟩
  · exact (step_cons s _ rest hd).trans (hostCycle_refused hheld hrst hne)
  · exact (step_cons s _ rest hs).trans (hostCycle_refused hheld rfl (hread src hne))
  · exact (step_cons s _ rest hs).trans (hostCycle_refused hheld rfl (hread 1 hne))

end Sys2Proof.Machine
end

section
/-!
PROOFS. The statements about the encoding (spec/30_encoding.md): which words decode to which command
(R70 to R72, R77), which to none and how many these are (R75), the decode procedure (R74), and the
lines of host programs (R79, R80). A decoded word is ZERO = 0, OP and N as numbers (`decode_eq_ok_iff`).
-/

namespace Sys2Proof

/-! ## Words as numbers (R70, R72, R77) -/

/-- Which words decode to a command, in numbers (R70, R74 steps 1 to 3). -/
theorem decode_eq_ok_iff (w : Word) (i : Instr) :
    decode w = .ok i ↔ w.toNat / 256 = 0 ∧ (opOf i).toNat = w.toNat % 16 ∧
      (i = .modinv ∨ (nOf i).toNat = w.toNat / 16 % 16) := by
  rw [decode_eq_ok, ← BitVec.toNat_inj, ← BitVec.toNat_inj, fieldOp_toNat, fieldN_toNat]

/-- The words of MODINV as numbers (R77). -/
theorem modinvWord_toNat (n : BitVec 4) :
    (n.setWidth 32 <<< 4 ||| 2 : Word).toNat = 16 * n.toNat + 2 := by
  revert n
  decide

/-- Every word of MODINV decodes to it (R77). -/
theorem decode_modinvWord (n : BitVec 4) :
    decode (n.setWidth 32 <<< 4 ||| 2 : Word) = .ok .modinv := by
  have hn := n.isLt
  rw [decode_eq_ok_iff, modinvWord_toNat]
  exact ⟨by omega, (by omega : 2 = (16 * n.toNat + 2) % 16), .inl rfl⟩

/-- The encoder's word decodes to the command it was made from (R70 to R72). -/
theorem decode_encode (i : Instr) : decode (encode i) = .ok i := by
  have hop := opOf_range i
  have hn := (nOf i).isLt
  rw [decode_eq_ok_iff, encode_toNat]
  exact ⟨by omega, by omega, .inr (by omega)⟩

/-- A word that decodes to another command than MODINV is the encoder's (R77). -/
theorem eq_encode_of_decode {w : Word} {i : Instr} (h : decode w = .ok i) (hi : i ≠ .modinv) :
    w = encode i := by
  obtain ⟨hzero, hop, hn⟩ := (decode_eq_ok_iff w i).1 h
  have hn := hn.resolve_left hi
  refine BitVec.eq_of_toNat_eq ?_
  rw [encode_toNat]
  omega

/-- A word that decodes to MODINV is 2 with some N (R77). -/
theorem eq_modinvWord_of_decode {w : Word} (h : decode w = .ok .modinv) :
    w = (fieldN w).setWidth 32 <<< 4 ||| 2 := by
  obtain ⟨hzero, hop, -⟩ := (decode_eq_ok_iff w .modinv).1 h
  have hop : 2 = w.toNat % 16 := hop
  refine BitVec.eq_of_toNat_eq ?_
  rw [modinvWord_toNat, fieldN_toNat]
  omega

/-- Settles O1: the fields of a word that decodes to a command are the command's OP and, but for MODINV,
its N, and so is the encoder's word. -/
theorem decodeEncodeAgree : Obligations.DecodeEncodeAgree := by
  refine fun i => ⟨decode_encode i, fun w h => ?_⟩
  by_cases hi : i = .modinv
  · subst hi
    exact .inr ⟨rfl, fieldN w, eq_modinvWord_of_decode h⟩
  · exact .inl (eq_encode_of_decode h hi)

/-! ## The opcode map (R72) -/

/-- Every opcode of R72 goes with every N. -/
theorem exists_opOf_nOf (j : Instr) (n : BitVec 4) :
    ∃ i, opOf i = opOf j ∧ (i = .modinv ∨ nOf i = n) := by
  cases j with
  | det _ => exact ⟨.det n, rfl, .inr rfl⟩
  | modinv => exact ⟨.modinv, rfl, .inl rfl⟩
  | adj _ => exact ⟨.adj n, rfl, .inr rfl⟩
  | matinv _ => exact ⟨.matinv n, rfl, .inr rfl⟩
  | matvec _ => exact ⟨.matvec n, rfl, .inr rfl⟩

/-- A word decodes to a command with a given opcode exactly when ZERO is 0 and OP is that opcode. -/
theorem exists_decode_opOf_iff (w : Word) (j : Instr) :
    (∃ i, decode w = .ok i ∧ opOf i = opOf j) ↔
      w.toNat / 256 = 0 ∧ w.toNat % 16 = (opOf j).toNat := by
  constructor
  · rintro ⟨i, hi, hop⟩
    obtain ⟨hzero, hop', -⟩ := (decode_eq_ok_iff w i).1 hi
    exact ⟨hzero, hop'.symm.trans (congrArg _ hop)⟩
  · rintro ⟨hzero, hop⟩
    obtain ⟨i, hij, hn⟩ := exists_opOf_nOf j (fieldN w)
    refine ⟨i, (decode_eq_ok w i).2 ⟨hzero, hij.trans ?_, hn⟩, hij⟩
    rw [← BitVec.toNat_inj, fieldOp_toNat, hop]

/-- A mnemonic names one opcode (R72). -/
theorem mnemonicOf_eq_iff (i j : Instr) : mnemonicOf i = mnemonicOf j ↔ opOf i = opOf j := by
  cases i <;> cases j <;> simp [mnemonicOf, opOf]

/-- Every row of the opcode map leaves N alone free and has a command's opcode and mnemonic (R72). -/
theorem row_eq_of_mem_opcodeMap {row : OpcodeRow} (h : row ∈ opcodeMap) :
    ∃ j, row = ⟨mnemonicOf j, 0xFFFFFF0F, (opOf j).setWidth 32⟩ := by
  simp only [opcodeMap, List.mem_cons, List.not_mem_nil, or_false] at h
  obtain rfl | rfl | rfl | rfl | rfl := h
  · exact ⟨.det 0, rfl⟩
  · exact ⟨.modinv, rfl⟩
  · exact ⟨.adj 0, rfl⟩
  · exact ⟨.matinv 0, rfl⟩
  · exact ⟨.matvec 0, rfl⟩

/-- The map's mask keeps ZERO and OP of a word (R72). -/
theorem and_mask_toNat (w : Word) :
    (w &&& 0xFFFFFF0F).toNat = 256 * (w.toNat / 256) + w.toNat % 16 := by
  have hlow : (w.toNat &&& 0xFFFFFF0F) % 2 ^ 8 = w.toNat % 16 := by
    rw [Nat.and_mod_two_pow]
    calc w.toNat % 2 ^ 8 &&& 2 ^ 4 - 1 = w.toNat % 2 ^ 8 % 2 ^ 4 := Nat.and_two_pow_sub_one_eq_mod _ 4
      _ = w.toNat % 16 := by omega
  have hhigh : (w.toNat &&& 0xFFFFFF0F) / 2 ^ 8 = w.toNat / 256 := by
    have hw := w.isLt
    rw [Nat.and_div_two_pow]
    calc w.toNat / 2 ^ 8 &&& 2 ^ 24 - 1 = w.toNat / 2 ^ 8 % 2 ^ 24 :=
          Nat.and_two_pow_sub_one_eq_mod _ 24
      _ = w.toNat / 256 := by omega
  have hand : (w &&& 0xFFFFFF0F).toNat = w.toNat &&& 0xFFFFFF0F := BitVec.toNat_and w _
  omega

/-- A masked word is an opcode exactly when ZERO is 0 and OP is that opcode (R72). -/
theorem and_mask_eq_iff (w : Word) (op : BitVec 4) :
    w &&& 0xFFFFFF0F = op.setWidth 32 ↔ w.toNat / 256 = 0 ∧ w.toNat % 16 = op.toNat := by
  have hop := op.isLt
  rw [← BitVec.toNat_inj, and_mask_toNat, BitVec.toNat_setWidth]
  omega

/-- Settles O2: a row's mask and pattern say that ZERO is 0 and OP is the opcode of its mnemonic, which
is when a word decodes to a command of that opcode. -/
theorem opcodeMapSelects : Obligations.OpcodeMapSelects := by
  intro w row hrow
  obtain ⟨j, rfl⟩ := row_eq_of_mem_opcodeMap hrow
  simp only [mnemonicOf_eq_iff]
  rw [and_mask_eq_iff, exists_decode_opOf_iff]

end Sys2Proof

namespace Sys2Proof.Machine

/-! ## Illegal words (R75) -/

/-- The opcodes 1 to 5 are all commands' (R72). -/
theorem exists_opOf_eq {op : Nat} (hlo : 1 ≤ op) (hhi : op ≤ 5) : ∃ j, (opOf j).toNat = op := by
  obtain rfl | rfl | rfl | rfl | rfl : op = 1 ∨ op = 2 ∨ op = 3 ∨ op = 4 ∨ op = 5 := by omega
  · exact ⟨.det 0, rfl⟩
  · exact ⟨.modinv, rfl⟩
  · exact ⟨.adj 0, rfl⟩
  · exact ⟨.matinv 0, rfl⟩
  · exact ⟨.matvec 0, rfl⟩

/-- A word that decodes is not illegal (R75). -/
theorem not_illegalWord_of_decode {w : Word} {i : Instr} (h : decode w = .ok i) :
    ¬IllegalWord w := by
  obtain ⟨hzero, hop, -⟩ := (decode_eq_ok_iff w i).1 h
  have hrange := opOf_range i
  unfold IllegalWord
  omega

/-- A word that is not illegal decodes (R72, R75). -/
theorem exists_decode_of_not_illegalWord {w : Word} (h : ¬IllegalWord w) : ∃ i, decode w = .ok i := by
  unfold IllegalWord at h
  obtain ⟨j, hj⟩ := exists_opOf_eq (op := w.toNat % 16) (by omega) (by omega)
  obtain ⟨i, hi, -⟩ := (exists_decode_opOf_iff w j).2 ⟨by omega, hj.symm⟩
  exact ⟨i, hi⟩

/-- The illegal words are those that decode to nothing (R75). -/
theorem illegalWord_iff (w : Word) : IllegalWord w ↔ ∀ i, decode w ≠ .ok i :=
  ⟨fun hw _ hi => not_illegalWord_of_decode hi hw, fun hw => by_contra fun hlegal =>
    (exists_decode_of_not_illegalWord hlegal).elim hw⟩

/-- The numbers below 256 whose last hexadecimal digit is 1 to 5: the legal words (R75, R76). -/
def legalNumbers : Finset Nat := (Finset.range 256).filter fun x => 1 ≤ x % 16 ∧ x % 16 ≤ 5

/-- A word is legal exactly when its number is one of the legal numbers (R75). -/
theorem mem_legalNumbers_iff (w : Word) : w.toNat ∈ legalNumbers ↔ ¬IllegalWord w := by
  simp only [legalNumbers, Finset.mem_filter, Finset.mem_range, IllegalWord]
  omega

/-- There are 80 legal words, sixteen for each of the five opcodes (R75). -/
theorem ncard_legalWords : {w : Word | IllegalWord w}ᶜ.ncard = 80 := by
  have himage : BitVec.toNat '' {w : Word | IllegalWord w}ᶜ = legalNumbers := by
    ext x
    constructor
    · rintro ⟨w, hw, rfl⟩
      exact (mem_legalNumbers_iff w).2 hw
    · intro hx
      have hlt : x < 2 ^ 32 := by
        have := Finset.mem_range.1 (Finset.mem_filter.1 hx).1
        omega
      have hw : (BitVec.ofNat 32 x).toNat = x := Nat.mod_eq_of_lt hlt
      exact ⟨BitVec.ofNat 32 x, (mem_legalNumbers_iff _).1 (hw.symm ▸ hx), hw⟩
  rw [← Set.ncard_image_of_injective _ fun _ _ => BitVec.eq_of_toNat_eq, himage,
    Set.ncard_coe_finset]
  decide

/-- There are 2^32 words. -/
theorem card_word : Nat.card Word = 2 ^ 32 := by
  rw [Nat.card_congr BitVec.equivFin.toEquiv, Nat.card_fin]

/-- An error's end of a command is its code in STATUS (R151, R157). -/
theorem raise_eq (e : CmdError) (s : State) : raise e s = { s with status := codeWord e } := by
  cases e <;> rfl

/-- A write of an illegal word to CMD ends with IllegalCommand (R75, R153). -/
theorem regWrite_illegalWord {w : Word} (s : State) (h : IllegalWord w) :
    regWrite 0 w s = .next { s with status := 0x00000005 } := by
  rw [regWrite_command]
  cases hw : decode w with
  | ok i => exact absurd hw ((illegalWord_iff w).1 h i)
  | error e => exact (runCommand_error w s e hw).trans (congrArg _ (raise_eq .illegalCommand s))

/-- Settles O3: the complement of the illegal words is counted, and an illegal word decodes to nothing, so
that its write ends with IllegalCommand. -/
theorem illegalWordsRaise : Obligations.IllegalWordsRaise := by
  refine ⟨illegalWord_iff, ?_, .inr (.inl rfl), .inl (by decide), fun w s => regWrite_illegalWord s⟩
  have htotal := Set.ncard_add_ncard_compl {w : Word | IllegalWord w}
  rw [ncard_legalWords, card_word] at htotal
  omega

/-! ## MODINV's N, and no word is a no-op (R77) -/

/-- What a command records in STATUS is one of the values of R29. -/
theorem CommandEnd.legalStatus {i : Instr} {s t : State} (h : CommandEnd i s t) :
    LegalStatus t.status := by
  cases h with
  | raised e => exact legalStatus_errorStatus e
  | completed _ => exact legalStatus_okStatus

/-- What a write to CMD records in STATUS is one of the values of R29. -/
theorem legalStatus_of_regWrite_command {w : Word} {s t : State} (h : regWrite 0 w s = .next t) :
    LegalStatus t.status := by
  obtain ⟨-, i, -, hend⟩ | ⟨-, rfl⟩ | ⟨h0, -⟩ := regWrite_next_cases h
  · exact hend.legalStatus
  · exact legalStatus_errorStatus .illegalCommand
  · exact absurd rfl h0

/-- Settles O5: MODINV is what its words decode to; every other command has the encoder's word alone; and
a write to CMD changes a state whose STATUS no command records. -/
theorem modinvIgnoresN : Obligations.ModinvIgnoresN := by
  refine ⟨fun n s => ?_, rfl, fun w w' i hw hw' hi => ?_, fun w => ?_⟩
  · exact (regWrite_command _ s).trans (runCommand_ok _ s .modinv (decode_modinvWord n))
  · exact (eq_encode_of_decode hw hi).trans (eq_encode_of_decode hw' hi).symm
  · obtain ⟨t, ht⟩ := transact_answers (.write 0 w) { State.reset with status := 0x00000020 }
    have hlegal : LegalStatus t.status := legalStatus_of_regWrite_command ht
    refine ⟨_, t, ht, fun heq => ?_⟩
    rw [heq] at hlegal
    exact absurd hlegal (by unfold LegalStatus; decide)

/-! ## The decode procedure (R74) -/

/-- With MOD[15:0] = 0 every command ends with BadModulus (R74 step 5, R154). -/
theorem exec_badModulus (i : Instr) {s : State} (hm : s.modulus = 0) :
    exec i s = .next (raise .badModulus s) := by
  cases i <;> exact congrArg _ (withModulus_zero s _ hm)

/-- With a modulus, a command other than MODINV ends with UnsupportedSize when N is no dimension (R74
step 6, R155). -/
theorem exec_unsupportedSize {i : Instr} {s : State} (hi : i ≠ .modinv) (hm : s.modulus ≠ 0)
    (hn : dimOfField (nOf i) = none) : exec i s = .next (raise .unsupportedSize s) := by
  cases i with
  | modinv => exact absurd rfl hi
  | det n => exact congrArg _ (withSize_none n s _ hm hn)
  | adj n => exact congrArg _ (withSize_none n s _ hm hn)
  | matinv n => exact congrArg _ (withSize_none n s _ hm hn)
  | matvec n => exact congrArg _ (withSize_none n s _ hm hn)

/-- MODINV is the command of opcode 2 (R72). -/
theorem opOf_eq_two_iff (i : Instr) : (opOf i).toNat = 2 ↔ i = .modinv := by
  cases i <;> simp [opOf]

/-- The command that runs is that of OP and N (R74 step 7). -/
theorem exec_eq_of_fields {i : Instr} {op n : Nat} (s : State) (hop : (opOf i).toNat = op)
    (hn : i = .modinv ∨ (nOf i).toNat = n) :
    exec i s =
      if op = 1 then exec (.det (BitVec.ofNat 4 n)) s
      else if op = 2 then exec .modinv s
      else if op = 3 then exec (.adj (BitVec.ofNat 4 n)) s
      else if op = 4 then exec (.matinv (BitVec.ofNat 4 n)) s
      else exec (.matvec (BitVec.ofNat 4 n)) s := by
  have hfield : i = .modinv ∨ nOf i = BitVec.ofNat 4 n := hn.imp_right fun h => by simp [← h]
  generalize BitVec.ofNat 4 n = k at hfield ⊢
  subst hop
  obtain rfl | rfl := hfield
  · rfl
  · cases i <;> rfl

/-- Settles O6: the first two tests are those of an illegal word; a word that passes them decodes to a
command of its OP and N, which makes the tests of MOD and of the size itself. -/
theorem decodeProcedure : Obligations.DecodeProcedure := by
  intro w s op n
  by_cases hw : IllegalWord w
  · rw [regWrite_illegalWord s hw]
    by_cases hzero : w.toNat / 256 ≠ 0
    · rw [if_pos hzero]
    · rw [if_neg hzero, if_pos (hw.resolve_left hzero)]
  · obtain ⟨i, hi⟩ := exists_decode_of_not_illegalWord hw
    obtain ⟨-, hop, hn⟩ := (decode_eq_ok_iff w i).1 hi
    rw [if_neg fun h => hw (.inl h), if_neg fun h => hw (.inr h), regWrite_command,
      runCommand_ok w s i hi, ← modulus_eq]
    by_cases hm : s.modulus = 0
    · rw [if_pos hm, exec_badModulus i hm, raise_eq]
      rfl
    rw [if_neg hm]
    by_cases hsize : op ≠ 2 ∧ ¬(n = 1 ∨ n = 2 ∨ n = 3)
    · obtain ⟨hop2, hn123⟩ := hsize
      have hi2 : i ≠ .modinv := fun h => hop2 (hop.symm.trans ((opOf_eq_two_iff i).2 h))
      have hnone : dimOfField (nOf i) = none := by
        rw [dimOfField_eq_none, hn.resolve_left hi2]
        omega
      rw [if_pos ⟨hop2, hn123⟩, exec_unsupportedSize hi2 hm hnone, raise_eq]
      rfl
    · rw [if_neg hsize]
      exact exec_eq_of_fields s hop hn

/-! ## Host programs (R79, R80) -/

/-- The word indices of the A registers (R20). -/
theorem indexOf_a_toNat (k : Fin 9) : (indexOf (.a k)).toNat = 4 + k.val := by
  revert k
  decide

/-- The word indices of the R registers (R20). -/
theorem indexOf_r_toNat (k : Fin 9) : (indexOf (.r k)).toNat = 16 + k.val := by
  revert k
  decide

/-- Settles O42: the first step reads R[k] and leaves the write of its value as the next action, which the
second step completes. -/
theorem copyMovesOneElement : Obligations.CopyMovesOneElement := by
  intro s k rest hheld hs
  have hread : regRead (indexOf (.r k)) s = s.r.get k := regRead_r _ s k (indexOf_r_toNat k)
  refine ⟨_, step_copy hs hheld, ?_⟩
  rw [hread]
  have hwrite : Completes { s with
        script := .drive (writeSignals (indexOf (.a k)) (s.r.get k)) true :: rest
        held := none
        readLog := s.readLog ++ [s.r.get k] }
      (.write (indexOf (.a k)) (s.r.get k)) rest := ⟨_, rfl, rfl, rfl, .inl rfl⟩
  have hk := indexOf_a_toNat k
  rw [hwrite.step_store (by omega), storeRegister_a _ _ k hk]

/-- Settles O43: what a check reads is STATUS's low five bits, and 0x00000010 is the word of 16. -/
theorem checkStopsUnlessOk : Obligations.CheckStopsUnlessOk := by
  intro s rest hheld hs
  have hread : regRead 1 s = BitVec.ofNat 32 (s.status.toNat % 32) := by
    rw [regRead_status 1 s rfl, ← statusVisible_toNat, BitVec.ofNat_toNat, BitVec.setWidth_eq]
  have hok : regRead 1 s = 0x00000010 ↔ s.status.toNat % 32 = 16 := by
    rw [regRead_status 1 s rfl, ← BitVec.toNat_inj, statusVisible_toNat]
    rfl
  rw [step_check hs hheld]
  simp only [hok]
  rw [hread]

/-! ## The worked words and lines (R80, R81) -/

/-- Settles O4: the decoder computes on each of the ten words. -/
theorem workedWords : Obligations.WorkedWords := by
  unfold Obligations.WorkedWords
  decide

/-- Settles O44: the expansion computes on each of the eight lines. -/
theorem linesExpandAsWritten : Obligations.LinesExpandAsWritten := by
  unfold Obligations.LinesExpandAsWritten
  decide

end Sys2Proof.Machine
end

section
/-!
PROOFS. The statement about DET (spec/40_determinant.md R90): its word, its two errors in their order,
and its result as the residue of Mathlib's determinant.
-/

namespace Sys2Proof.Machine

/-- An N field is UnsupportedSize exactly when it is the number of no dimension (R73, R155). -/
theorem dimOfField_eq_none_iff_forall_ne (n : BitVec 4) :
    dimOfField n = none ↔ ∀ d : Dim, n.toNat ≠ d.n := by
  rw [Option.eq_none_iff_forall_ne_some]
  exact forall_congr' fun d => not_congr (dimOfField_eq_some n d)

/-- The word of a residue is the word of the integer it is (R6, R7). -/
theorem zext32_red (v : Int) {m : Nat} (hm : m ≠ 0) :
    zext32 (red v m) = BitVec.ofInt 32 (v % (m : Int)) := by
  rw [← red_cast v hm, BitVec.ofInt_natCast]
  rfl

/-- DET n with a modulus and a legal size, of the matrix the A registers hold (R90, R91). -/
theorem exec_det_of_holdsMatrix {n : BitVec 4} {s : State} {d : Dim}
    {M : Matrix (Fin d.n) (Fin d.n) Int} (hm : s.modulus ≠ 0) (hd : dimOfField n = some d)
    (hM : HoldsMatrix s.a d M) :
    exec (.det n) s =
      .next (complete { s with r := s.r.set 0 (BitVec.ofInt 32 (M.det % (s.modulus : Int))) }) := by
  rw [exec_det_some hm hd, writeScalar, zext32_red _ hm, determinant_eq_det,
    matrix_eq_of_holdsMatrix hM]

/-- Settles O7: DET is one of the commands that end with BadModulus and with UnsupportedSize, and with
neither it writes the residue of the determinant. -/
theorem detResult : Obligations.DetResult := by
  intro n s m hm
  rw [← modulus_eq] at hm
  subst hm
  refine ⟨rfl, fun hzero => ?badModulus, fun hm hn => ?unsupportedSize, fun d M hm hn hM => ?result⟩
  case badModulus =>
    rw [exec_badModulus (.det n) hzero, raise_eq]
    rfl
  case unsupportedSize =>
    have hnone : dimOfField n = none := (dimOfField_eq_none_iff_forall_ne n).2 hn
    rw [exec_unsupportedSize (i := .det n) nofun hm hnone, raise_eq]
    rfl
  case result =>
    rw [exec_det_of_holdsMatrix hm ((dimOfField_eq_some n d).2 hn) hM, complete, okStatus_eq]

end Sys2Proof.Machine
end

section
/-!
PROOFS. The statement about MODINV (spec/41_modular_inverse_scalar.md): its words, its errors, and its
result. The search finds an inverse exactly when SA and the modulus have no common factor (R102), a fact
about `minv` alone.
-/

namespace Sys2Proof

/-- Which words decode to MODINV, in numbers: the N field is free (R72, R77). -/
theorem decode_eq_modinv_iff (w : Word) :
    decode w = .ok .modinv ↔ w.toNat / 256 = 0 ∧ w.toNat % 16 = 2 := by
  rw [decode_eq_ok_iff]
  exact and_congr_right fun _ => ⟨fun h => h.1.symm, fun h => ⟨h.symm, .inl rfl⟩⟩

end Sys2Proof

namespace Sys2Proof.Machine

/-! ## When the search finds an inverse (R102, R103) -/

/-- The integers of residue 1 are those congruent to 1 (R7). -/
theorem red_eq_one_iff (v : Int) {m : Nat} (hm : 2 ≤ m) : red v m = 1 ↔ v ≡ 1 [ZMOD m] := by
  have hone : red 1 m = 1 := congrArg Int.toNat (Int.emod_eq_of_lt (by omega) (by omega))
  rw [← red_eq_red_iff v 1 (by omega : m ≠ 0), hone]

/-- An inverse modulo m, and a multiple of m that makes up the difference, are a Bézout identity. -/
theorem mul_modEq_one_iff {a u m : Int} : a * u ≡ 1 [ZMOD m] ↔ ∃ k, u * a + k * m = 1 := by
  rw [Int.modEq_iff_dvd]
  exact exists_congr fun k => ⟨fun h => by linear_combination -h, fun h => by linear_combination -h⟩

/-- For m ≥ 2 the search finds an inverse exactly when a and m have no common factor (R102). -/
theorem exists_minv_eq_some_iff_gcd {a : Int} {m : Nat} (hm : 2 ≤ m) :
    (∃ x, minv a m = some x) ↔ Nat.gcd a.natAbs m = 1 := by
  have hcop : IsCoprime a m ↔ Nat.gcd a.natAbs m = 1 := Int.isCoprime_iff_gcd_eq_one
  rw [← hcop]
  constructor
  · rintro ⟨x, hx⟩
    obtain ⟨-, -, hinv⟩ := minv_eq_some.1 hx
    exact ⟨x, mul_modEq_one_iff.1 ((red_eq_one_iff _ hm).1 hinv)⟩
  · rintro ⟨u, hu⟩
    have hm0 : m ≠ 0 := by omega
    have hinv : red (a * red u m) m = 1 := by
      rw [red_mul_red a u hm0, red_eq_one_iff _ hm]
      exact mul_modEq_one_iff.2 hu
    have hpos : red u m ≠ 0 := fun h => by
      rw [h] at hinv
      simp [red] at hinv
    exact ⟨red u m, minv_eq_some.2 ⟨Nat.one_le_iff_ne_zero.2 hpos, red_lt u hm0, hinv⟩⟩

/-- For m ≥ 2 the search finds nothing exactly when a and m have a common factor (R102). -/
theorem minv_eq_none_iff_gcd {a : Int} {m : Nat} (hm : 2 ≤ m) :
    minv a m = none ↔ Nat.gcd a.natAbs m ≠ 1 := by
  rw [ne_eq, ← exists_minv_eq_some_iff_gcd hm, ← Option.ne_none_iff_exists', ne_eq, not_not]

/-- At m = 1 the interval of the search is empty (R103). -/
theorem minv_one (a : Int) : minv a 1 = none := rfl

/-! ## MODINV (R100) -/

/-- MODINV with a modulus for which the search finds nothing (R100). -/
theorem exec_modinv_none {s : State} (hm : s.modulus ≠ 0) (h : minv s.scalar s.modulus = none) :
    exec .modinv s = .next { s with status := 0x00000003 } := by
  obtain ⟨h0, -⟩ | ⟨-, -, hexec⟩ | ⟨-, x, hx, -⟩ := execModinv_cases s
  · exact absurd h0 hm
  · exact hexec.trans (by rw [raise_eq]; rfl)
  · rw [h] at hx
    cases hx

/-- MODINV with an inverse found (R100). -/
theorem exec_modinv_some {s : State} {x : Nat} (hm : s.modulus ≠ 0)
    (h : minv s.scalar s.modulus = some x) :
    exec .modinv s =
      .next { s with r := s.r.set 0 (BitVec.ofNat 32 x), status := 0x00000010 } := by
  obtain ⟨h0, -⟩ | ⟨-, hnone, -⟩ | ⟨-, y, hy, hexec⟩ := execModinv_cases s
  · exact absurd h0 hm
  · rw [h] at hnone
    cases hnone
  · rw [h] at hy
    cases hy
    exact hexec.trans (by rw [complete, okStatus_eq]; rfl)

/-- Settles O8: MODINV ends as the search does, which finds nothing at m = 1 and otherwise an inverse
exactly when SA and m have no common factor. -/
theorem modinvResult : Obligations.ModinvResult := by
  refine ⟨rfl, decode_eq_modinv_iff, ?_⟩
  rintro s m _ hmod rfl
  rw [← modulus_eq] at hmod
  subst hmod
  refine ⟨fun hzero => ?badModulus, fun hone => ?modulusOne, fun hm hgcd => ?noInverse,
    fun hm hgcd => ?inverse⟩
  case badModulus =>
    rw [exec_badModulus .modinv hzero, raise_eq]
    rfl
  case modulusOne => exact exec_modinv_none (by omega) (hone ▸ minv_one s.scalar)
  case noInverse => exact exec_modinv_none (by omega) ((minv_eq_none_iff_gcd hm).2 hgcd)
  case inverse =>
    obtain ⟨x, hx⟩ := (exists_minv_eq_some_iff_gcd hm).2 hgcd
    obtain ⟨hpos, hlt, hinv⟩ := minv_eq_some.1 hx
    have hres : s.sa.toInt * x % (s.modulus : Int) = 1 := by
      rw [← red_cast _ (by omega)]
      exact congrArg Nat.cast hinv
    exact ⟨x, hpos, hlt, hres, exec_modinv_some (by omega) hx⟩

end Sys2Proof.Machine
end

section
/-!
PROOFS. The statements about ADJ (spec/42_adjugate.md R110 to R112): its word, its two errors in their
order, its result as the residues of Mathlib's adjugate, and the value that size 1 has for every entry.
-/

namespace Sys2Proof.Machine

/-! ## The errors of the sized commands, as STATUS words (R154, R155) -/

/-- BadModulus is code 4 (R154). -/
theorem exec_badModulus_code (i : Instr) {s : State} (hm : s.modulus = 0) :
    exec i s = .next { s with status := 0x00000004 } :=
  (exec_badModulus i hm).trans (congrArg _ (raise_eq .badModulus s))

/-- UnsupportedSize is code 1, for every command but MODINV and every N that is no dimension (R155). -/
theorem exec_unsupportedSize_code {i : Instr} {s : State} (hi : i ≠ .modinv) (hm : s.modulus ≠ 0)
    (hn : ∀ d : Dim, (nOf i).toNat ≠ d.n) : exec i s = .next { s with status := 0x00000001 } :=
  (exec_unsupportedSize hi hm ((dimOfField_eq_none_iff_forall_ne _).2 hn)).trans
    (congrArg _ (raise_eq .unsupportedSize s))

/-! ## Matrix results (R27, R158) -/

section MatrixResult

variable {d : Dim} {f : Fin d.n → Fin d.n → Nat} {s : State}

/-- A matrix result of residues below m is held as it is by the n by n part (R26, R27). -/
theorem writeMatrix_holdsUnsigned {B : Matrix (Fin d.n) (Fin d.n) Int}
    (hlt : ∀ i j, f i j < s.modulus) (hB : ∀ i j, (f i j : Int) = B i j) :
    HoldsUnsigned (writeMatrix d f s).r d B := by
  intro i j k hk
  obtain rfl : k = cell d i j := Fin.ext hk
  have hfits : f i j < 2 ^ 32 := by
    have := hlt i j
    have := modulus_lt s
    omega
  rw [writeMatrix_cell, zext32_toNat hfits, hB]

/-- A command that completes with a matrix of residues has changed STATUS and R alone, and of R the n by n
part alone, which holds the matrix (R27, R158). -/
theorem exists_complete_writeMatrix {B : Matrix (Fin d.n) (Fin d.n) Int}
    (hlt : ∀ i j, f i j < s.modulus) (hB : ∀ i j, (f i j : Int) = B i j) :
    ∃ r', complete (writeMatrix d f s) = { s with r := r', status := 0x00000010 } ∧
      HoldsUnsigned r' d B ∧ ∀ k, ¬InPart d k → r'.get k = s.r.get k := by
  refine ⟨(writeMatrix d f s).r, ?_, writeMatrix_holdsUnsigned hlt hB,
    fun _ hk => writeMatrix_other d f s hk⟩
  rw [complete, okStatus_eq]
  rfl

end MatrixResult

/-- The matrix result of size 1 is the scalar result of its one entry (R27). -/
theorem writeMatrix_one (f : Fin Dim.one.n → Fin Dim.one.n → Nat) (s : State) :
    writeMatrix .one f s = writeScalar (f (0 : Fin 1) (0 : Fin 1)) s := by
  refine congrArg (fun r => { s with r := r }) (nine_ext fun k => ?_)
  by_cases hk : k = 0
  · subst hk
    exact (writeMatrix_cell .one f s (0 : Fin 1) (0 : Fin 1)).trans (writeScalar_zero _ s).symm
  · have hout : ¬InPart .one k := by
      rintro ⟨hrow, hcol⟩
      change k.val / 3 < 1 at hrow
      change k.val % 3 < 1 at hcol
      omega
    exact (writeMatrix_other .one f s hout).trans (writeScalar_other _ s hk).symm

/-! ## ADJ (R110) -/

/-- ADJ n with a modulus and a legal size, of the matrix the A registers hold (R110, R111). -/
theorem exec_adj_of_holdsMatrix {n : BitVec 4} {s : State} {d : Dim}
    {M : Matrix (Fin d.n) (Fin d.n) Int} (hm : s.modulus ≠ 0) (hd : dimOfField n = some d)
    (hM : HoldsMatrix s.a d M) :
    exec (.adj n) s =
      .next (complete (writeMatrix d (fun i j => red (M.adjugate i j) s.modulus) s)) := by
  rw [exec_adj_some hm hd, adjugate_eq_adjugate, matrix_eq_of_holdsMatrix hM]

/-- Settles O9: ADJ is one of the commands that end with BadModulus and with UnsupportedSize, and with
neither it writes the residues of the adjugate as a matrix result. -/
theorem adjResult : Obligations.AdjResult := by
  intro n s m hm
  rw [← modulus_eq] at hm
  subst hm
  refine ⟨rfl, exec_badModulus_code (.adj n), exec_unsupportedSize_code (i := .adj n) nofun,
    fun d M hm hn hM => ?_⟩
  have hexec := exec_adj_of_holdsMatrix hm ((dimOfField_eq_some n d).2 hn) hM
  obtain ⟨r', hcomplete, hresult, hkept⟩ :=
    exists_complete_writeMatrix (B := fun i j => M.adjugate i j % (s.modulus : Int))
      (fun i j => red_lt (M.adjugate i j) hm) (fun i j => red_cast (M.adjugate i j) hm)
  exact ⟨r', hexec.trans (congrArg _ hcomplete), hresult, hkept⟩

/-! ## ADJ of size 1 (R112) -/

/-- The word of the residue of 1 is 0 for modulus 1 and 1 for every other (R7, R112). -/
theorem zext32_red_one {m : Nat} (hm : m ≠ 0) : zext32 (red 1 m) = if m = 1 then 0 else 1 := by
  by_cases h1 : m = 1
  · subst h1
    rfl
  · rw [if_neg h1, (red_eq_one_iff 1 (by omega)).2 rfl]
    rfl

/-- Settles O12: the adjugate of size 1 is 1 whatever the entry, and its residue is a scalar result. -/
theorem adjugateOfSizeOne : Obligations.AdjugateOfSizeOne := by
  intro s hm
  rw [← modulus_eq] at hm ⊢
  have hd : dimOfField 1 = some .one := rfl
  have hone : adjugate .one (s.matrix .one) = fun _ _ => 1 := rfl
  rw [exec_adj_some hm hd, hone, writeMatrix_one, writeScalar, zext32_red_one hm, complete,
    okStatus_eq]

end Sys2Proof.Machine
end

section
/-!
PROOFS. The statements about MATINV (spec/43_matrix_inverse.md): its word, its errors in their order and
its result (R120), its status by the reduced determinant (R122), the two-sided inverse it leaves in R
(R124), and its decomposition into DET, MODINV and ADJ (R125).
-/

namespace Sys2Proof.Machine

/-! ## The reduced determinant (R120) -/

/-- Step 1 of MATINV: the residue of the determinant of the matrix in A (R120). -/
def State.reducedDet (s : State) (d : Dim) : Nat := red (determinant d (s.matrix d)) s.modulus

/-- The reduced determinant is the residue of Mathlib's determinant (R91, R120). -/
theorem reducedDet_cast {s : State} {d : Dim} {M : Matrix (Fin d.n) (Fin d.n) Int}
    (hm : s.modulus ≠ 0) (hM : HoldsMatrix s.a d M) :
    (s.reducedDet d : Int) = M.det % (s.modulus : Int) := by
  rw [State.reducedDet, red_cast _ hm, determinant_eq_det, matrix_eq_of_holdsMatrix hM]

/-- The reduced determinant lies in 0..m-1 (R7). -/
theorem reducedDet_lt {s : State} (hm : s.modulus ≠ 0) (d : Dim) : s.reducedDet d < s.modulus :=
  red_lt _ hm

/-- The reduced determinant's word is not negative (R6, R26). -/
theorem reducedDet_lt_pow {s : State} (hm : s.modulus ≠ 0) (d : Dim) : s.reducedDet d < 2 ^ 31 := by
  have hlt := reducedDet_lt hm d
  have hbound := modulus_lt s
  omega

/-- The search finds nothing exactly when no number has residue 1 in the product (R100, R152). -/
theorem minv_eq_none_iff_noScalarInverse (a : Int) {m : Nat} (hm : m ≠ 0) :
    minv a m = none ↔ NoScalarInverse a m := by
  rw [minv_eq_none]
  refine forall_congr' fun x => imp_congr_right fun _ => imp_congr_right fun _ => not_congr ?_
  rw [← red_cast _ hm, Nat.cast_eq_one]

/-- 0 has no inverse (R122). -/
theorem minv_zero (m : Nat) : minv 0 m = none := by
  refine minv_eq_none.2 fun x _ _ => ?_
  simp [red]

/-! ## MATINV's three ends with a modulus and a legal size (R120, R122) -/

section MatinvEnds

variable {n : BitVec 4} {s : State} {d : Dim} (hm : s.modulus ≠ 0) (hd : dimOfField n = some d)
include hm hd

/-- MATINV's outcomes with a modulus and a legal size (R120, R122). -/
theorem execMatinv_cases_of_dim :
    (s.reducedDet d = 0 ∧ exec (.matinv n) s = .next (raise .singularMatrix s)) ∨
    (s.reducedDet d ≠ 0 ∧ minv (s.reducedDet d) s.modulus = none ∧
      exec (.matinv n) s = .next (raise .noInverse s)) ∨
    (s.reducedDet d ≠ 0 ∧ ∃ x, minv (s.reducedDet d) s.modulus = some x ∧
      exec (.matinv n) s =
        .next (complete (writeMatrix d (scaledAdjugate d (s.matrix d) x s.modulus) s))) := by
  obtain ⟨h0, -⟩ | ⟨-, hnone, -⟩ | ⟨-, d', hd', hend⟩ := execMatinv_cases n s
  · exact absurd h0 hm
  · cases hnone.symm.trans hd
  · cases hd'.symm.trans hd
    exact hend

/-- MATINV of a matrix whose reduced determinant is 0 (R122). -/
theorem exec_matinv_singular (h0 : s.reducedDet d = 0) :
    exec (.matinv n) s = .next { s with status := 0x00000002 } := by
  obtain ⟨-, hexec⟩ | ⟨hne, -⟩ | ⟨hne, -⟩ := execMatinv_cases_of_dim hm hd
  · exact hexec.trans (congrArg _ (raise_eq .singularMatrix s))
  · exact absurd h0 hne
  · exact absurd h0 hne

/-- MATINV of a matrix whose reduced determinant is not 0 and has no inverse (R122). -/
theorem exec_matinv_noInverse (h0 : s.reducedDet d ≠ 0)
    (hx : minv (s.reducedDet d) s.modulus = none) :
    exec (.matinv n) s = .next { s with status := 0x00000003 } := by
  obtain ⟨hzero, -⟩ | ⟨-, -, hexec⟩ | ⟨-, x, hsome, -⟩ := execMatinv_cases_of_dim hm hd
  · exact absurd hzero h0
  · exact hexec.trans (congrArg _ (raise_eq .noInverse s))
  · cases hx.symm.trans hsome

/-- MATINV of a matrix whose reduced determinant has the inverse x (R120, R123). -/
theorem exec_matinv_inverse {x : Nat} (hx : minv (s.reducedDet d) s.modulus = some x) :
    exec (.matinv n) s =
      .next (complete (writeMatrix d (scaledAdjugate d (s.matrix d) x s.modulus) s)) := by
  obtain ⟨hzero, -⟩ | ⟨-, hnone, -⟩ | ⟨-, y, hy, hexec⟩ := execMatinv_cases_of_dim hm hd
  · rw [hzero, Nat.cast_zero, minv_zero] at hx
    cases hx
  · cases hx.symm.trans hnone
  · cases hx.symm.trans hy
    exact hexec

end MatinvEnds

/-! ## The scaled adjugate (R120, R123) -/

section ScaledAdjugate

variable {s : State} {d : Dim} {M : Matrix (Fin d.n) (Fin d.n) Int} (hm : s.modulus ≠ 0)
  (hM : HoldsMatrix s.a d M) (x : Nat) (i j : Fin d.n)
include hm hM

/-- An entry of the result is that of Mathlib's adjugate, reduced, times x, reduced (R111, R120). -/
theorem scaledAdjugate_cast : (scaledAdjugate d (s.matrix d) x s.modulus i j : Int) =
    x * (M.adjugate i j % (s.modulus : Int)) % (s.modulus : Int) := by
  rw [scaledAdjugate, red_cast _ hm, red_cast _ hm, adjugate_eq_adjugate, matrix_eq_of_holdsMatrix hM]

/-- An entry of the result is congruent to x times that of the adjugate (R8). -/
theorem scaledAdjugate_modEq : (scaledAdjugate d (s.matrix d) x s.modulus i j : Int) ≡
    ((x : Int) • M.adjugate) i j [ZMOD s.modulus] := by
  rw [scaledAdjugate, red_mul_red _ _ hm, adjugate_eq_adjugate, matrix_eq_of_holdsMatrix hM]
  exact red_modEq _ hm

end ScaledAdjugate

/-- After a successful MATINV, R[3·i + j] is entry (i, j) of the scaled adjugate (R27, R120). -/
theorem complete_scaledAdjugate_cell {s : State} {d : Dim} (hm : s.modulus ≠ 0) (a : IntMatrix d)
    (x : Nat) (i j : Fin d.n) :
    ((complete (writeMatrix d (scaledAdjugate d a x s.modulus) s)).r.get (cell d i j)).toNat =
      scaledAdjugate d a x s.modulus i j := by
  rw [complete_r, writeMatrix_cell, scaledAdjugate, zext32_red_toNat _ s hm]

/-- Settles O10: MATINV is one of the commands that end with BadModulus and with UnsupportedSize; with
neither, the reduced determinant decides between its three ends. -/
theorem matinvResult : Obligations.MatinvResult := by
  intro n s m hm
  rw [← modulus_eq] at hm
  subst hm
  refine ⟨rfl, exec_badModulus_code (.matinv n), exec_unsupportedSize_code (i := .matinv n) nofun,
    fun d M hm hn hM => ?_⟩
  have hd := (dimOfField_eq_some n d).2 hn
  rw [← reducedDet_cast hm hM]
  refine ⟨fun h0 => ?singular, fun h0 hnone => ?noInverse, fun x hpos hlt hx => ?inverse⟩
  case singular => exact exec_matinv_singular hm hd (Int.natCast_eq_zero.1 h0)
  case noInverse =>
    exact exec_matinv_noInverse hm hd (mt Int.natCast_eq_zero.2 h0)
      ((minv_eq_none_iff_noScalarInverse _ hm).2 hnone)
  case inverse =>
    have hminv : minv (s.reducedDet d) s.modulus = some x :=
      minv_eq_some.2 ⟨hpos, hlt, Nat.cast_eq_one.1 ((red_cast _ hm).trans hx)⟩
    obtain ⟨r', hcomplete, hresult, hkept⟩ := exists_complete_writeMatrix
      (fun i j => red_lt _ hm) (scaledAdjugate_cast hm hM x)
    exact ⟨r', (exec_matinv_inverse hm hd hminv).trans (congrArg _ hcomplete), hresult, hkept⟩

/-! ## SingularMatrix before NoInverse (R122) -/

/-- Settles O19: a reduced determinant that is not 0 has an inverse exactly when it has no common factor
with the modulus. -/
theorem singularBeforeNoInverse : Obligations.SingularBeforeNoInverse := by
  intro n s d M m hm hm0 hn hM
  rw [← modulus_eq] at hm
  subst hm
  have hd := (dimOfField_eq_some n d).2 hn
  rw [← reducedDet_cast hm0 hM]
  by_cases h0 : s.reducedDet d = 0
  · exact ⟨_, exec_matinv_singular hm0 hd h0, (if_pos (Int.natCast_eq_zero.2 h0)).symm⟩
  have hm2 : 2 ≤ s.modulus := by
    have := reducedDet_lt hm0 d
    omega
  rw [if_neg (mt Int.natCast_eq_zero.1 h0)]
  by_cases hgcd : Nat.gcd (s.reducedDet d : Int).natAbs s.modulus = 1
  · obtain ⟨x, hx⟩ := (exists_minv_eq_some_iff_gcd hm2).2 hgcd
    exact ⟨_, exec_matinv_inverse hm0 hd hx, (if_neg (not_not.2 hgcd)).symm⟩
  · exact ⟨_, exec_matinv_noInverse hm0 hd h0 ((minv_eq_none_iff_gcd hm2).2 hgcd),
      (if_pos hgcd).symm⟩

/-! ## The result is a two-sided inverse (R124) -/

/-- A product of matrices keeps congruence of its left factor (R8). -/
theorem mul_apply_modEq_left {d : Dim} {m : Nat} (M : Matrix (Fin d.n) (Fin d.n) Int)
    {B C : Matrix (Fin d.n) (Fin d.n) Int} (h : ∀ i j, B i j ≡ C i j [ZMOD m]) (i k : Fin d.n) :
    (B * M) i k ≡ (C * M) i k [ZMOD m] := by
  simp only [Matrix.mul_apply]
  exact Int.ModEq.sum fun j _ => (h i j).mul_right (M j k)

/-- A number congruent to 1 times the identity is congruent to the identity (R8). -/
theorem smul_one_apply_modEq {d : Dim} {m : Nat} {c : Int} (h : c ≡ 1 [ZMOD m]) (i k : Fin d.n) :
    (c • (1 : Matrix (Fin d.n) (Fin d.n) Int)) i k ≡
      (1 : Matrix (Fin d.n) (Fin d.n) Int) i k [ZMOD m] := by
  simpa using h.mul_right ((1 : Matrix (Fin d.n) (Fin d.n) Int) i k)

/-- What the search finds is an inverse of the determinant itself (R100, R120). -/
theorem mul_det_modEq_one {s : State} {d : Dim} {M : Matrix (Fin d.n) (Fin d.n) Int} {x : Nat}
    (hM : HoldsMatrix s.a d M) (hx : minv (s.reducedDet d) s.modulus = some x) :
    x * M.det ≡ 1 [ZMOD s.modulus] := by
  obtain ⟨hpos, hlt, hinv⟩ := minv_eq_some.1 hx
  have hdet : (s.reducedDet d : Int) ≡ M.det [ZMOD s.modulus] := by
    rw [reducedDet_cast (by omega) hM]
    exact Int.mod_modEq _ _
  calc x * M.det ≡ x * s.reducedDet d [ZMOD s.modulus] := hdet.symm.mul_left _
    _ = s.reducedDet d * x := mul_comm _ _
    _ ≡ 1 [ZMOD s.modulus] := (red_eq_one_iff _ (by omega)).1 hinv

/-- A MATINV that succeeds had a modulus, and its search found an inverse (R120). -/
theorem exists_minv_of_matinv_ok {n : BitVec 4} {s t : State} {d : Dim} (hd : dimOfField n = some d)
    (h : exec (.matinv n) s = .next t) (hok : t.status = 0x00000010) :
    s.modulus ≠ 0 ∧ ∃ x, minv (s.reducedDet d) s.modulus = some x := by
  have hraise : ∀ e, exec (.matinv n) s ≠ .next (raise e s) := by
    intro e he
    cases he.symm.trans h
    exact errorStatus_ne_ok e hok
  have hm : s.modulus ≠ 0 := fun h0 => hraise _ (exec_badModulus (.matinv n) h0)
  obtain ⟨-, hend⟩ | ⟨-, -, hend⟩ | ⟨-, x, hx, -⟩ := execMatinv_cases_of_dim hm hd
  · exact absurd hend (hraise _)
  · exact absurd hend (hraise _)
  · exact ⟨hm, x, hx⟩

/-- Settles O21: R holds x times the adjugate, whose product with A in either order is x times the
determinant times the identity, and x is the determinant's inverse. -/
theorem matinvIsTwoSidedInverse : Obligations.MatinvIsTwoSidedInverse := by
  intro n s t d M B m hm hn h hok hM hB i k
  rw [← modulus_eq] at hm
  subst hm
  have hd := (dimOfField_eq_some n d).2 hn
  obtain ⟨hm, x, hx⟩ := exists_minv_of_matinv_ok hd h hok
  cases (exec_matinv_inverse hm hd hx).symm.trans h
  have hinv : x * M.det ≡ 1 [ZMOD s.modulus] := mul_det_modEq_one hM hx
  have hadj : ∀ i j, B i j ≡ ((x : Int) • M.adjugate) i j [ZMOD s.modulus] := fun i j => by
    rw [← hB i j (cell d i j) rfl, complete_scaledAdjugate_cell hm]
    exact scaledAdjugate_modEq hm hM x i j
  constructor
  · calc (M * B) i k ≡ (M * ((x : Int) • M.adjugate)) i k [ZMOD s.modulus] :=
          mul_apply_modEq M hadj i k
      _ = ((x * M.det) • (1 : Matrix (Fin d.n) (Fin d.n) Int)) i k := by
          rw [Matrix.mul_smul, Matrix.mul_adjugate, smul_smul]
      _ ≡ (1 : Matrix (Fin d.n) (Fin d.n) Int) i k [ZMOD s.modulus] :=
          smul_one_apply_modEq hinv i k
  · calc (B * M) i k ≡ (((x : Int) • M.adjugate) * M) i k [ZMOD s.modulus] :=
          mul_apply_modEq_left M hadj i k
      _ = ((x * M.det) • (1 : Matrix (Fin d.n) (Fin d.n) Int)) i k := by
          rw [Matrix.smul_mul, Matrix.adjugate_mul, smul_smul]
      _ ≡ (1 : Matrix (Fin d.n) (Fin d.n) Int) i k [ZMOD s.modulus] :=
          smul_one_apply_modEq hinv i k

/-! ## MATINV from DET, MODINV and ADJ (R125) -/

/-- A number below 2^31 is read back from its word as it is, with either sign (R6). -/
theorem sint_zext32 {v : Nat} (h : v < 2 ^ 31) : sint (zext32 v) = v := by
  have hv : (zext32 v).toNat = v := zext32_toNat (by omega)
  rw [sint, BitVec.toInt_eq_toNat_of_lt (by omega), hv]

/-- With the reduced determinant in SA, MODINV's search is MATINV's (R26, R125). -/
theorem minv_scalar_reducedDet {s : State} (hm : s.modulus ≠ 0) (d : Dim) :
    minv { s with sa := zext32 (s.reducedDet d) }.scalar s.modulus =
      minv (s.reducedDet d) s.modulus :=
  congrArg (minv · s.modulus) (sint_zext32 (reducedDet_lt_pow hm d))

/-- MODINV on the reduced determinant ends with NoInverse when MATINV's search finds nothing (R125). -/
theorem modinv_reducedDet_none {s t : State} {d : Dim} (hm : s.modulus ≠ 0)
    (hx : minv (s.reducedDet d) s.modulus = none)
    (h : exec .modinv { s with sa := zext32 (s.reducedDet d) } = .next t) :
    t.status = 0x00000003 := by
  have hexec := exec_modinv_none (s := { s with sa := zext32 (s.reducedDet d) }) hm
    ((minv_scalar_reducedDet hm d).trans hx)
  cases hexec.symm.trans h
  rfl

/-- MODINV on the reduced determinant leaves in R0 the inverse that MATINV's search finds (R125). -/
theorem modinv_reducedDet_some {s t : State} {d : Dim} {x : Nat} (hm : s.modulus ≠ 0)
    (hx : minv (s.reducedDet d) s.modulus = some x)
    (h : exec .modinv { s with sa := zext32 (s.reducedDet d) } = .next t) :
    t.status = 0x00000010 ∧ (t.r.get 0).toNat = x := by
  have hexec := exec_modinv_some (s := { s with sa := zext32 (s.reducedDet d) }) hm
    ((minv_scalar_reducedDet hm d).trans hx)
  cases hexec.symm.trans h
  obtain ⟨-, hlt, -⟩ := minv_eq_some.1 hx
  have hbound := modulus_lt s
  exact ⟨rfl, (congrArg _ (writeScalar_zero x s)).trans (zext32_toNat (by omega))⟩

/-- The word of a number below 2^32 is 0 for 0 alone (R6). -/
theorem zext32_eq_zero_iff {v : Nat} (h : v < 2 ^ 32) : zext32 v = 0 ↔ v = 0 := by
  rw [← BitVec.toNat_inj, zext32_toNat h]
  rfl

/-- The residue of a number is its remainder (R7). -/
theorem red_natCast (v m : Nat) : red v m = v % m := by
  rw [red, ← Int.natCast_mod, Int.toNat_natCast]

/-- An entry of MATINV's result from MODINV's result x and ADJ's entry (R125). -/
theorem scaledAdjugate_eq_mod (d : Dim) (a : IntMatrix d) (x m : Nat) (i j : Fin d.n) :
    scaledAdjugate d a x m i j = x * red (adjugate d a i j) m % m := by
  rw [scaledAdjugate, ← Nat.cast_mul, red_natCast]

/-- After DET n, R0 is the word of the reduced determinant (R90, R120). -/
theorem exec_det_r0_eq {n : BitVec 4} {s t : State} {d : Dim} (hm : s.modulus ≠ 0)
    (hd : dimOfField n = some d) (h : exec (.det n) s = .next t) :
    t.r.get 0 = zext32 (s.reducedDet d) := by
  cases (exec_det_some hm hd).symm.trans h
  exact writeScalar_zero _ s

/-- After ADJ n, R[3·i + j] is the residue that MATINV scales (R110, R120). -/
theorem exec_adj_cell_toNat {n : BitVec 4} {s t : State} {d : Dim} (hm : s.modulus ≠ 0)
    (hd : dimOfField n = some d) (h : exec (.adj n) s = .next t) (i j : Fin d.n) :
    (t.r.get (cell d i j)).toNat = red (adjugate d (s.matrix d) i j) s.modulus := by
  cases (exec_adj_some hm hd).symm.trans h
  rw [complete_r, writeMatrix_cell, zext32_red_toNat _ s hm]

/-- Settles O24: DET leaves the reduced determinant in R0, so that MODINV on it is MATINV's own search,
and ADJ's entries are those that MATINV scales. -/
theorem matinvFromDetModinvAdj : Obligations.MatinvFromDetModinvAdj := by
  intro n s tDet tInv tAdj d m hm hm0 hn hdet hinv hadj
  rw [← modulus_eq] at hm
  subst hm
  have hd := (dimOfField_eq_some n d).2 hn
  have hlt : s.reducedDet d < 2 ^ 32 := (reducedDet_lt_pow hm0 d).trans (by decide)
  rw [exec_det_r0_eq hm0 hd hdet] at hinv
  simp only [exec_det_r0_eq hm0 hd hdet, zext32_eq_zero_iff hlt]
  by_cases h0 : s.reducedDet d = 0
  · exact ⟨_, exec_matinv_singular hm0 hd h0, (if_pos h0).symm,
      fun hok => absurd hok (errorStatus_ne_ok .singularMatrix)⟩
  rw [if_neg h0]
  cases hx : minv (s.reducedDet d) s.modulus with
  | none =>
    exact ⟨_, exec_matinv_noInverse hm0 hd h0 hx, (modinv_reducedDet_none hm0 hx hinv).symm,
      fun hok => absurd hok (errorStatus_ne_ok .noInverse)⟩
  | some x =>
    obtain ⟨hstatus, hR0⟩ := modinv_reducedDet_some hm0 hx hinv
    refine ⟨_, exec_matinv_inverse hm0 hd hx, hstatus.symm, fun _ k hk => ?_⟩
    obtain ⟨i, j, rfl⟩ := exists_cell_of_inPart hk
    rw [complete_scaledAdjugate_cell hm0, scaledAdjugate_eq_mod, hR0, exec_adj_cell_toNat hm0 hd hadj]

end Sys2Proof.Machine
end

section
/-!
PROOFS. The statements about MATVEC (spec/44_matrix_vector_product.md): its word, its two errors in their
order and its result as the residues of Mathlib's matrix-vector product (R130), and that with MATINV's
result in A it takes the ciphertext back to the plaintext (R133).
-/

namespace Sys2Proof.Machine

/-! ## MATVEC (R130) -/

/-- The vector the V registers hold is the one MATVEC reads (R23). -/
theorem vector_eq_of_holdsVector {s : State} {d : Dim} {x : Fin d.n → Int}
    (h : HoldsVector s.v d x) : s.vector d = x :=
  funext fun j => h j (component d j) rfl

/-- MATVEC n with a modulus and a legal size (R130). -/
theorem exec_matvec_some {n : BitVec 4} {s : State} {d : Dim} (hm : s.modulus ≠ 0)
    (hd : dimOfField n = some d) : exec (.matvec n) s = .next (complete
      (writeVector d (fun i => red (product d (s.matrix d) (s.vector d) i) s.modulus) s)) :=
  congrArg Host.Outcome.next (withSize_some n s _ d hm hd)

/-- MATVEC n with a modulus and a legal size, of the matrix in A and the vector in V: it changes STATUS and
R alone, and of R the first n registers alone, which hold the residues of the product (R27, R130, R158). -/
theorem exists_exec_matvec {n : BitVec 4} {s : State} {d : Dim}
    {M : Matrix (Fin d.n) (Fin d.n) Int} {x : Fin d.n → Int} (hm : s.modulus ≠ 0)
    (hn : n.toNat = d.n) (hM : HoldsMatrix s.a d M) (hx : HoldsVector s.v d x) :
    ∃ r', exec (.matvec n) s = .next { s with r := r', status := 0x00000010 } ∧
      (∀ (i : Fin d.n) (k : Fin 9), k.val = i.val →
        ((r'.get k).toNat : Int) = M.mulVec x i % (s.modulus : Int)) ∧
      ∀ k : Fin 9, d.n ≤ k.val → r'.get k = s.r.get k := by
  refine ⟨(writeVector d (fun i => red (M.mulVec x i) s.modulus) s).r, ?result,
    fun i k hk => ?component, fun k hk => writeVector_other d _ s hk⟩
  case result =>
    rw [exec_matvec_some hm ((dimOfField_eq_some n d).2 hn), product_eq_mulVec,
      matrix_eq_of_holdsMatrix hM, vector_eq_of_holdsVector hx, complete, okStatus_eq]
    rfl
  case component => rw [writeVector_component d _ s i hk, zext32_red_toNat _ s hm, red_cast _ hm]

/-- Settles O11: MATVEC is one of the commands that end with BadModulus and with UnsupportedSize, and with
neither it writes the residues of the product as a vector result. -/
theorem matvecResult : Obligations.MatvecResult := by
  intro n s m hm
  rw [← modulus_eq] at hm
  subst hm
  exact ⟨rfl, exec_badModulus_code (.matvec n), exec_unsupportedSize_code (i := .matvec n) nofun,
    fun d M x => exists_exec_matvec⟩

/-! ## Results as operands (R26) -/

/-- A register that a successful command wrote shows one number, read as signed or as unsigned (R26). -/
theorem result_toInt_eq_toNat {i : Instr} {s t : State} (h : exec i s = .next t)
    (hok : t.status = 0x00000010) {k : Fin 9} (hk : k.val ∈ resultRegisters i) :
    (t.r.get k).toInt = (t.r.get k).toNat := by
  obtain ⟨hresidue, -⟩ := resultsAreResidues
  have hlt := hresidue i s t h hok k hk
  exact BitVec.toInt_eq_toNat_of_lt (by omega)

/-- The matrix that R shows after a MATINV of size n: entry (i, j) is R[3·i + j], unsigned (R27). -/
def State.resultMatrix (t : State) (d : Dim) : Matrix (Fin d.n) (Fin d.n) Int :=
  fun i j => (t.r.get (cell d i j)).toNat

/-- R holds its result matrix (R27). -/
theorem holdsUnsigned_resultMatrix (t : State) (d : Dim) : HoldsUnsigned t.r d (t.resultMatrix d) := by
  intro i j k hk
  obtain rfl : k = cell d i j := Fin.ext hk
  rfl

/-- The A registers hold the matrix that the commands read (R22). -/
theorem holdsMatrix_matrix (s : State) (d : Dim) : HoldsMatrix s.a d (Matrix.of (s.matrix d)) := by
  intro i j k hk
  obtain rfl : k = cell d i j := Fin.ext hk
  rfl

/-- The inverse that MATINV left in R, moved to A, is the operand A holds (R26, R133). -/
theorem holdsMatrix_of_matinv {n : BitVec 4} {s t u : State} {d : Dim} (hn : n.toNat = d.n)
    (h : exec (.matinv n) s = .next t) (hok : t.status = 0x00000010)
    (hA : ∀ k, InPart d k → u.a.get k = t.r.get k) : HoldsMatrix u.a d (t.resultMatrix d) := by
  intro i j k hk
  obtain rfl : k = cell d i j := Fin.ext hk
  have hmem : (cell d i j).val ∈ resultRegisters (.matinv n) := by
    rw [resultRegisters, hn]
    exact (mem_matrixRegisters d _).2 (inPart_cell d i j)
  rw [hA _ (inPart_cell d i j), result_toInt_eq_toNat h hok hmem, State.resultMatrix]

/-- The vector that MATVEC left in R, moved to V, is the operand V holds (R26, R133). -/
theorem holdsVector_of_matvec {n : BitVec 4} {s t u : State} {d : Dim} {c : Fin d.n → Int}
    (hn : n.toNat = d.n) (h : exec (.matvec n) s = .next t) (hok : t.status = 0x00000010)
    (hc : ∀ (j : Fin d.n) (k : Fin 9), k.val = j.val → ((t.r.get k).toNat : Int) = c j)
    (hV : ∀ (j : Fin 3) (k : Fin 9), j.val < d.n → k.val = j.val → u.v.get j = t.r.get k) :
    HoldsVector u.v d c := by
  intro j k hk
  have hlt : k.val < d.n := by omega
  have hmem : k.val ∈ resultRegisters (.matvec n) := by
    rw [resultRegisters, hn]
    exact (mem_vectorRegisters d (k.castLE (by decide))).2 hlt
  rw [hV k (k.castLE (by decide)) hlt rfl, result_toInt_eq_toNat h hok hmem]
  exact hc j _ hk

/-! ## Decryption (R133) -/

section Decryption

variable {d : Dim} {m : Nat} {A B : Matrix (Fin d.n) (Fin d.n) Int} {x y : Fin d.n → Int}

/-- Congruent factors have congruent matrix-vector products (R8). -/
theorem mulVec_apply_modEq (hAB : ∀ i j, A i j ≡ B i j [ZMOD m]) (hxy : ∀ j, x j ≡ y j [ZMOD m])
    (i : Fin d.n) : A.mulVec x i ≡ B.mulVec y i [ZMOD m] := by
  have h := product_modEq hAB hxy i
  rwa [product_eq_mulVec d A x, product_eq_mulVec d B y] at h

/-- A left inverse of A modulo m takes every vector congruent to A x back to x (R8, R133). -/
theorem mulVec_modEq_of_inverse
    (hBA : ∀ i k, (B * A) i k ≡ (1 : Matrix (Fin d.n) (Fin d.n) Int) i k [ZMOD m])
    (hy : ∀ j, y j ≡ A.mulVec x j [ZMOD m]) (i : Fin d.n) : B.mulVec y i ≡ x i [ZMOD m] :=
  calc B.mulVec y i ≡ B.mulVec (A.mulVec x) i [ZMOD m] := mulVec_apply_modEq (fun _ _ => rfl) hy i
    _ = (B * A).mulVec x i := by rw [Matrix.mulVec_mulVec]
    _ ≡ (1 : Matrix (Fin d.n) (Fin d.n) Int).mulVec x i [ZMOD m] :=
        mulVec_apply_modEq hBA (fun _ => rfl) i
    _ = x i := by rw [Matrix.one_mulVec]

end Decryption

/-- Settles O22: MATINV's result is a left inverse of the key modulo m, both results are the same numbers
as operands, and the components of p are their own residues. -/
theorem matvecWithInverseDecrypts : Obligations.MatvecWithInverseDecrypts := by
  intro n s tInv tEnc u d p m hm hn hinv hok hp hrange henc humod hA hV
  have hleft := fun i k => (matinvIsTwoSidedInverse n s tInv d _ _ m hm hn hinv hok
    (holdsMatrix_matrix s d) (holdsUnsigned_resultMatrix tInv d) i k).2
  have hu : u.modulus = s.modulus := by rw [modulus_eq, modulus_eq, humod]
  rw [← modulus_eq] at hm
  subst hm
  obtain ⟨hm, -⟩ := exists_minv_of_matinv_ok ((dimOfField_eq_some n d).2 hn) hinv hok
  obtain ⟨c, hc, hcipher, -⟩ := exists_exec_matvec hm hn (holdsMatrix_matrix s d) hp
  cases hc.symm.trans henc
  obtain ⟨r', hexec, hplain, -⟩ := exists_exec_matvec (hu ▸ hm) hn
    (holdsMatrix_of_matinv hn hinv hok hA) (holdsVector_of_matvec hn henc rfl hcipher hV)
  refine ⟨_, hexec, rfl, fun j k hk => ?_⟩
  obtain ⟨hnonneg, hlt⟩ := hrange j
  calc ((r'.get k).toNat : Int)
      = (tInv.resultMatrix d).mulVec
          (fun i => (Matrix.of (s.matrix d)).mulVec p i % s.modulus) j % s.modulus := by
        rw [hplain j k hk, hu]
    _ = p j % s.modulus := mulVec_modEq_of_inverse hleft (fun _ => Int.mod_modEq _ _) j
    _ = p j := Int.emod_eq_of_lt hnonneg hlt

end Sys2Proof.Machine
end

section
/-!
PROOFS. The statements about the errors of commands (spec/60_exceptions.md R151 to R163). When an error kind
applies to a decoded command is said once (`Cause`, which is `Applies` of the command's words), and how a
command ends is read off it: the first kind that applies is raised, and with none it succeeds (R161).
-/

namespace Sys2Proof.Machine

/-! ## The first error that applies (R161) -/

/-- An error kind applies and none of a higher priority does (R161). -/
def IsFirst (P : CmdError → Prop) (e : CmdError) : Prop :=
  P e ∧ ∀ e', priority e' < priority e → ¬P e'

/-- When some error kind applies, one of them is the first (R161). -/
theorem exists_isFirst {P : CmdError → Prop} (h : ∃ e, P e) : ∃ e, IsFirst P e := by
  obtain ⟨e, he, hmin⟩ := (measure priority).wf.has_min {e | P e} h
  exact ⟨e, he, fun e' hlt he' => hmin e' he' hlt⟩

/-- IllegalCommand comes before every other error (R161). -/
theorem priority_illegalCommand_lt {e : CmdError} (h : e ≠ .illegalCommand) :
    priority .illegalCommand < priority e := by
  revert h
  cases e <;> decide

/-- When an error kind applies to a decoded command, each kind looked at by itself (R151 to R156). -/
def Cause (i : Instr) (s : State) : CmdError → Prop
  | .illegalCommand => False
  | .badModulus => s.modulus = 0
  | .unsupportedSize => i ≠ .modinv ∧ ∀ d : Dim, (nOf i).toNat ≠ d.n
  | .singularMatrix => ∃ n d, i = .matinv n ∧ n.toNat = d.n ∧
      determinant d (s.matrix d) % (s.modulus : Int) = 0
  | .noInverse =>
      i = .modinv ∧ NoScalarInverse s.scalar s.modulus ∨
      ∃ n d, i = .matinv n ∧ n.toNat = d.n ∧ NoScalarInverse (determinant d (s.matrix d)) s.modulus

/-! ## A word's errors are those of its command -/

/-- MATINV is the command of opcode 4 (R72). -/
theorem opOf_eq_four_iff (i : Instr) : (opOf i).toNat = 4 ↔ ∃ n, i = .matinv n := by
  cases i <;> simp [opOf]

/-- The matrix of a legal size that A holds is the one a command reads, so that what is said of its
determinant is said of the model's (R22, R91). -/
theorem exists_holdsMatrix_iff {s : State} {d : Dim} {P : Int → Prop} :
    (∃ M : Matrix (Fin d.n) (Fin d.n) Int, HoldsMatrix s.a d M ∧ P M.det) ↔
      P (determinant d (s.matrix d)) := by
  rw [determinant_eq_det]
  refine ⟨?_, fun h => ⟨_, holdsMatrix_matrix s d, h⟩⟩
  rintro ⟨M, hM, h⟩
  rwa [matrix_eq_of_holdsMatrix hM]

section WordOfCommand

variable {w : Word} {i : Instr} (hw : decode w = .ok i)
include hw

/-- The words of MATINV with a legal size and a determinant with a property, by the command (R72, R91). -/
theorem matinvWord_iff {s : State} {P : Int → Prop} :
    (w.toNat % 16 = 4 ∧ ∃ (d : Dim) (M : Matrix (Fin d.n) (Fin d.n) Int),
      w.toNat / 16 % 16 = d.n ∧ HoldsMatrix s.a d M ∧ P M.det) ↔
    ∃ n d, i = .matinv n ∧ n.toNat = d.n ∧ P (determinant d (s.matrix d)) := by
  obtain ⟨-, hop, hn⟩ := (decode_eq_ok_iff w i).1 hw
  rw [← hop, opOf_eq_four_iff]
  constructor
  · rintro ⟨⟨n, rfl⟩, d, M, hd, hM⟩
    exact ⟨n, d, rfl, (hn.resolve_left nofun).trans hd, exists_holdsMatrix_iff.1 ⟨M, hM⟩⟩
  · rintro ⟨n, d, rfl, hd, hP⟩
    obtain ⟨M, hM⟩ := exists_holdsMatrix_iff.2 hP
    exact ⟨⟨n, rfl⟩, d, M, (hn.resolve_left nofun).symm.trans hd, hM⟩

/-- An error kind applies to a word that decodes exactly when it applies to the command. -/
theorem applies_iff_cause (s : State) (e : CmdError) : Applies w s e ↔ Cause i s e := by
  have hlegal := not_illegalWord_of_decode hw
  obtain ⟨-, hop, hn⟩ := (decode_eq_ok_iff w i).1 hw
  cases e with
  | illegalCommand => exact iff_of_false hlegal id
  | badModulus => rw [Applies, Cause, and_iff_right hlegal, modulus_eq]
  | unsupportedSize =>
    rw [Applies, Cause, and_iff_right hlegal, ← hop, ne_eq, opOf_eq_two_iff]
    exact and_congr_right fun hi => by rw [hn.resolve_left hi]
  | singularMatrix =>
    rw [Applies, Cause, and_iff_right hlegal, ← modulus_eq]
    exact matinvWord_iff hw (P := fun v => v % (s.modulus : Int) = 0)
  | noInverse =>
    rw [Applies, Cause, and_iff_right hlegal, ← modulus_eq, ← hop, opOf_eq_two_iff, hop]
    exact or_congr Iff.rfl (matinvWord_iff hw (P := fun v => NoScalarInverse v s.modulus))

end WordOfCommand

/-! ## How a command ends, by the errors that apply (R161) -/

section MatinvCauses

variable {s : State} (hm : s.modulus ≠ 0) (d : Dim)
include hm

/-- The reduced determinant is 0 exactly when the determinant has residue 0 (R7, R156). -/
theorem reducedDet_eq_zero_iff :
    s.reducedDet d = 0 ↔ determinant d (s.matrix d) % (s.modulus : Int) = 0 := by
  rw [State.reducedDet, ← red_cast _ hm, Int.natCast_eq_zero]

/-- The reduced determinant has an inverse exactly when the determinant has one (R8, R152). -/
theorem minv_reducedDet_eq_none_iff : minv (s.reducedDet d) s.modulus = none ↔
    NoScalarInverse (determinant d (s.matrix d)) s.modulus := by
  rw [← minv_eq_none_iff_noScalarInverse _ hm, State.reducedDet,
    minv_eq_of_modEq hm (red_modEq _ hm)]

end MatinvCauses

/-- A command raises the first error that applies (R161). -/
theorem exec_of_isFirst {i : Instr} {s : State} {e : CmdError} (h : IsFirst (Cause i s) e) :
    exec i s = .next { s with status := codeWord e } := by
  obtain ⟨he, hfirst⟩ := h
  cases e with
  | illegalCommand => exact he.elim
  | badModulus => exact exec_badModulus_code i he
  | unsupportedSize =>
    have hm : s.modulus ≠ 0 := hfirst .badModulus (by decide)
    exact exec_unsupportedSize_code he.1 hm he.2
  | singularMatrix =>
    have hm : s.modulus ≠ 0 := hfirst .badModulus (by decide)
    obtain ⟨n, d, rfl, hn, h0⟩ := he
    exact exec_matinv_singular hm ((dimOfField_eq_some n d).2 hn)
      ((reducedDet_eq_zero_iff hm d).2 h0)
  | noInverse =>
    have hm : s.modulus ≠ 0 := hfirst .badModulus (by decide)
    obtain ⟨rfl, hx⟩ | ⟨n, d, rfl, hn, hx⟩ := he
    · exact exec_modinv_none hm ((minv_eq_none_iff_noScalarInverse _ hm).2 hx)
    · have h0 : s.reducedDet d ≠ 0 := fun h0 =>
        hfirst .singularMatrix (by decide) ⟨n, d, rfl, hn, (reducedDet_eq_zero_iff hm d).1 h0⟩
      exact exec_matinv_noInverse hm ((dimOfField_eq_some n d).2 hn) h0
        ((minv_reducedDet_eq_none_iff hm d).2 hx)

/-- A command other than MODINV to which UnsupportedSize does not apply has a size (R155). -/
theorem exists_dimOfField {i : Instr} {s : State} (hi : i ≠ .modinv)
    (h : ¬Cause i s .unsupportedSize) : ∃ d, dimOfField (nOf i) = some d :=
  Option.ne_none_iff_exists'.1 fun hnone => h ⟨hi, (dimOfField_eq_none_iff_forall_ne _).1 hnone⟩

/-- A command to which no error applies succeeds (R158, R161). -/
theorem exec_of_no_cause {i : Instr} {s : State} (h : ∀ e, ¬Cause i s e) :
    ∃ t, exec i s = .next t ∧ t.status = 0x00000010 := by
  have hm : s.modulus ≠ 0 := h .badModulus
  have hsize := fun hi => exists_dimOfField hi (h .unsupportedSize)
  cases i with
  | det n =>
    obtain ⟨d, hd⟩ := hsize nofun
    exact ⟨_, exec_det_some hm hd, okStatus_eq⟩
  | modinv =>
    obtain ⟨x, hx⟩ := Option.ne_none_iff_exists'.1 fun hnone =>
      h .noInverse (.inl ⟨rfl, (minv_eq_none_iff_noScalarInverse _ hm).1 hnone⟩)
    exact ⟨_, exec_modinv_some hm hx, rfl⟩
  | adj n =>
    obtain ⟨d, hd⟩ := hsize nofun
    exact ⟨_, exec_adj_some hm hd, okStatus_eq⟩
  | matinv n =>
    obtain ⟨d, hd⟩ := hsize nofun
    have hn := (dimOfField_eq_some n d).1 hd
    obtain ⟨x, hx⟩ := Option.ne_none_iff_exists'.1 fun hnone =>
      h .noInverse (.inr ⟨n, d, rfl, hn, (minv_reducedDet_eq_none_iff hm d).1 hnone⟩)
    exact ⟨_, exec_matinv_inverse hm hd hx, okStatus_eq⟩
  | matvec n =>
    obtain ⟨d, hd⟩ := hsize nofun
    exact ⟨_, exec_matvec_some hm hd, okStatus_eq⟩

/-- Settles O15: an illegal word raises its own error, and a word that decodes ends as its command, to
which the same errors apply. -/
theorem firstErrorIsReported : Obligations.FirstErrorIsReported := by
  intro w s
  by_cases hw : IllegalWord w
  · refine ⟨fun e _ hfirst => ?_, fun hnone => absurd hw (hnone .illegalCommand)⟩
    obtain rfl : e = .illegalCommand :=
      by_contra fun hne => hfirst .illegalCommand (priority_illegalCommand_lt hne) hw
    exact regWrite_illegalWord s hw
  · obtain ⟨i, hi⟩ := exists_decode_of_not_illegalWord hw
    simp only [applies_iff_cause hi, regWrite_command, runCommand_ok w s i hi]
    exact ⟨fun e he hfirst => exec_of_isFirst ⟨he, hfirst⟩, exec_of_no_cause⟩

/-! ## The status a command ends with names its error (R151, R157) -/

/-- The error kinds have different codes (R151). -/
theorem codeWord_injective : Function.Injective codeWord := by
  intro e e'
  cases e <;> cases e' <;> decide

/-- The success status is no error's (R151, R158). -/
theorem ok_ne_codeWord (e : CmdError) : (0x00000010 : Word) ≠ codeWord e := by
  cases e <;> decide

/-- A command that ends with the code of an error kind is one to which it applies (R157, R161). -/
theorem cause_of_status {i : Instr} {s t : State} {e : CmdError} (h : exec i s = .next t)
    (hs : t.status = codeWord e) : Cause i s e := by
  by_cases hc : ∃ e', Cause i s e'
  · obtain ⟨e', hfirst⟩ := exists_isFirst hc
    cases (exec_of_isFirst hfirst).symm.trans h
    exact codeWord_injective hs ▸ hfirst.1
  · obtain ⟨t', ht', hok⟩ := exec_of_no_cause (not_exists.1 hc)
    cases ht'.symm.trans h
    exact absurd (hok.symm.trans hs) (ok_ne_codeWord e)

/-- A command to which an error kind does not apply answers, and does not end with its code (R161). -/
theorem exec_status_ne {i : Instr} {s : State} {e : CmdError} (h : ¬Cause i s e) :
    ∃ t, exec i s = .next t ∧ t.status ≠ codeWord e := by
  obtain ⟨t, ht⟩ := exec_answers i s
  exact ⟨t, ht, fun hs => h (cause_of_status ht hs)⟩

/-! ## BadModulus, UnsupportedSize and SingularMatrix (R154, R155, R156) -/

/-- Settles O16: BadModulus applies exactly when MOD[15:0] is 0, which a plain write can make it. -/
theorem badModulusWhenZero : Obligations.BadModulusWhenZero := by
  simp only [Obligations.BadModulusWhenZero, ← modulus_eq]
  refine ⟨fun i s => exec_badModulus_code i, fun w s hw => ?_, fun i s hm => ?_⟩
  · rw [regWrite_mod, modVisible_eq_ofNat, hw]
    rfl
  · exact exec_status_ne (e := .badModulus) hm

/-- The N fields that are no size (R73, R155). -/
theorem forall_ne_dim_iff (n : BitVec 4) : (∀ d : Dim, n.toNat ≠ d.n) ↔ n = 0 ∨ 4 ≤ n.toNat := by
  rw [← dimOfField_eq_none_iff_forall_ne]
  revert n
  decide

/-- Settles O17: UnsupportedSize applies to the four sized commands, by N alone, and not to MODINV. -/
theorem unsupportedSizeOutsideOneToThree : Obligations.UnsupportedSizeOutsideOneToThree := by
  refine ⟨fun n s i hm hi => ?_, fun s => exec_status_ne (e := .unsupportedSize) fun h => h.1 rfl⟩
  rw [← modulus_eq] at hm
  have hsized : i ≠ .modinv ∧ nOf i = n := by
    obtain rfl | rfl | rfl | rfl := hi <;> exact ⟨nofun, rfl⟩
  obtain ⟨hne, rfl⟩ := hsized
  rw [← forall_ne_dim_iff]
  exact ⟨exec_unsupportedSize_code hne hm,
    fun hsize => exec_status_ne (e := .unsupportedSize) fun h => hsize h.2⟩

/-- Settles O18: SingularMatrix applies to MATINV alone, by the reduced determinant, and DET and ADJ have
no error with a modulus and a legal size. -/
theorem singularOnlyFromMatinv : Obligations.SingularOnlyFromMatinv := by
  refine ⟨fun i s => ?_, fun n s d M m hm hm0 hn hM => ?_⟩
  · obtain ⟨t, ht⟩ := exec_answers i s
    refine ⟨t, ht, fun hs => ?_⟩
    obtain ⟨n, -, hi, -⟩ := cause_of_status (e := .singularMatrix) ht hs
    exact ⟨n, hi⟩
  · rw [← modulus_eq] at hm
    subst hm
    have hd := (dimOfField_eq_some n d).2 hn
    refine ⟨?_, ⟨_, exec_det_some hm0 hd, okStatus_eq⟩, ⟨_, exec_adj_some hm0 hd, okStatus_eq⟩⟩
    rw [← reducedDet_cast hm0 hM, Int.natCast_eq_zero]
    by_cases h0 : s.reducedDet d = 0
    · exact ⟨_, exec_matinv_singular hm0 hd h0, iff_of_true rfl h0⟩
    · have hcause : ¬Cause (.matinv n) s .singularMatrix := by
        rintro ⟨_, d', ⟨⟩, hn', hzero⟩
        cases hd.symm.trans ((dimOfField_eq_some n d').2 hn')
        exact h0 ((reducedDet_eq_zero_iff hm0 d).2 hzero)
      obtain ⟨t, ht, hne⟩ := exec_status_ne hcause
      exact ⟨t, ht, iff_of_false hne h0⟩

/-! ## What an error leaves, and what overwrites it (R157, R163) -/

/-- The codes are 1 to 5 (R151). -/
theorem errorCode_range (e : CmdError) : 1 ≤ (errorCode e).toNat ∧ (errorCode e).toNat ≤ 5 := by
  cases e <;> decide

/-- STATUS after an error: ERR is the code (R29, R157). -/
theorem statusErr_errorStatus (e : CmdError) : statusErr (errorStatus e) = errorCode e := by
  cases e <;> decide

/-- STATUS after an error: RV is 0 (R29, R157). -/
theorem statusRv_errorStatus (e : CmdError) : statusRv (errorStatus e) = false := by
  cases e <;> decide

/-- A write to CMD that does not succeed has raised an error (R157). -/
theorem exists_eq_raise_of_regWrite {w : Word} {s t : State} (h : regWrite 0 w s = .next t)
    (hs : t.status ≠ 0x00000010) : ∃ e, t = raise e s := by
  obtain ⟨-, i, -, hend⟩ | ⟨-, rfl⟩ | ⟨h0, -⟩ := regWrite_next_cases h
  · cases hend with
    | raised e => exact ⟨e, rfl⟩
    | completed _ => exact absurd okStatus_eq hs
  · exact ⟨.illegalCommand, rfl⟩
  · exact absurd rfl h0

/-- Settles O13: a write to CMD that does not succeed raises an error, whose code is all it changes. -/
theorem errorsChangeOnlyStatus : Obligations.ErrorsChangeOnlyStatus := by
  intro w s
  obtain ⟨t, ht⟩ := transact_answers (.write 0 w) s
  refine ⟨t, ht, fun hs => ?_⟩
  obtain ⟨e, rfl⟩ := exists_eq_raise_of_regWrite ht hs
  obtain ⟨hlo, hhi⟩ := errorCode_range e
  exact ⟨errorCode e, hlo, hhi, by rw [raise, errorStatus_eq], statusErr_errorStatus e,
    statusRv_errorStatus e⟩

/-- A command does not look at STATUS, and overwrites it (R163). -/
theorem exec_setStatus (i : Instr) (s : State) (x : Word) :
    exec i { s with status := x } = exec i s := by
  obtain ⟨t, t', ht, ht', hstatus, hr⟩ :=
    congruentOperandsAgree i s { s with status := x } _ rfl rfl rfl (fun _ => rfl) (fun _ => rfl) rfl
  have heq : t' = t :=
    calc t' = { s with r := t'.r, status := t'.status } := (commandEnd_of_exec ht').frame
      _ = { s with r := t.r, status := t.status } := by rw [hstatus, hr]
      _ = t := (commandEnd_of_exec ht).frame.symm
  rw [ht, ht', heq]

/-- Settles O20: neither a command nor IllegalCommand depends on the STATUS before it; a step changes
STATUS by the frame rule's causes alone; a plain write and a read leave it. -/
theorem errorsAreNotSticky : Obligations.ErrorsAreNotSticky := by
  refine ⟨fun w x s => ?command, fun s t h => ?step, fun w s => ?write,
    fun idx s => ⟨_, transact_read idx s, rfl⟩⟩
  case command =>
    rw [regWrite_command, regWrite_command]
    cases hw : decode w with
    | ok i => rw [runCommand_ok w _ i hw, runCommand_ok w s i hw, exec_setStatus]
    | error e => exact (runCommand_error w _ e hw).trans (runCommand_error w s e hw).symm
  case step =>
    obtain ⟨-, -, -, -, -, hstatus⟩ := registersChangeOnlyByTheirCauses s t h
    exact hstatus
  case write =>
    rw [regWrite_store 1 w s (by decide), storeRegister_ignored w s (.inl rfl)]

end Sys2Proof.Machine
end

section
/-!
PROOFS. The statements about reset (spec/70_reset_and_hazards.md): what a reset edge does to the block
and to a request that waits (R180, R181), and what each command gives in the reset state (R183). There A
holds the zero matrix and V the zero vector, so that each result but ADJ 1's is zeros, which R holds
already.
-/

namespace Sys2Proof.Machine

/-! ## A reset edge (R180, R181) -/

/-- Nothing is acknowledged while `rst` = 1 (R180). -/
theorem portOut_ack_of_rst {p : PortIn} (done : Bool) (s : State) (h : p.rst = true) :
    (portOut p done s).ack = false := by
  simp [portOut, h]

/-- A step at a reset edge is the reset, whatever the host drives or holds (R180, R181). -/
theorem Drives.step_of_rst {s : State} {p : PortIn} {done : Bool} {rest : List HostAction}
    (h : Drives s p done rest) (hrst : p.rst = true) :
    step s = .next (resetBlock { s with script := rest }) :=
  (step_driven h).trans (clockEdge_rst p done _ hrst)

/-- Settles O46: the step is `resetBlock`, which holds no request, so that the next request driven
completes as any does. -/
theorem resetEdge : Obligations.ResetEdge := by
  intro s p done rest hd hrst
  refine ⟨portOut_ack_of_rst done s hrst, resetBlock { s with script := rest }, hd.step_of_rst hrst,
    sameBlock_hostSide State.reset _ _ _, rfl, rfl, fun h => step_nil _ h,
    fun p' tr rest' hrest hrst' hreq => ?_⟩
  have hdone : Completes (resetBlock { s with script := rest }) tr rest' :=
    ⟨p', hrest, hrst', hreq, .inl rfl⟩
  exact hdone.step_eq

/-! ## The operands after reset (R37, R183) -/

/-- The modulus after reset is 26, so that no command ends with BadModulus (R37, R154). -/
theorem reset_modulus_ne_zero : State.reset.modulus ≠ 0 := by decide

/-- After reset A holds the zero matrix (R37). -/
theorem reset_holdsMatrix (d : Dim) : HoldsMatrix State.reset.a d 0 := fun _ _ k _ =>
  congrArg BitVec.toInt (Vector.get_replicate 9 0 k)

/-- After reset V holds the zero vector (R37). -/
theorem reset_holdsVector (d : Dim) : HoldsVector State.reset.v d 0 := fun _ k _ =>
  congrArg BitVec.toInt (Vector.get_replicate 3 0 k)

/-- The matrix after reset is the zero matrix. -/
theorem reset_matrix (d : Dim) : Matrix.of (State.reset.matrix d) = 0 :=
  matrix_eq_of_holdsMatrix (reset_holdsMatrix d)

/-- The determinant after reset is 0 (R183). -/
theorem reset_determinant (d : Dim) : determinant d (State.reset.matrix d) = 0 := by
  have : Nonempty (Fin d.n) := ⟨⟨0, d.n_pos⟩⟩
  rw [determinant_eq_det, reset_matrix, Matrix.det_zero]

/-- The adjugate after reset is 0 for the sizes above 1 (R183). -/
theorem reset_adjugate {d : Dim} (hd : d ≠ .one) : adjugate d (State.reset.matrix d) = fun _ _ => 0 := by
  have : Nontrivial (Fin d.n) := by
    cases d with
    | one => exact absurd rfl hd
    | two => exact inferInstanceAs (Nontrivial (Fin 2))
    | three => exact inferInstanceAs (Nontrivial (Fin 3))
  rw [adjugate_eq_adjugate, reset_matrix, Matrix.adjugate_zero]
  rfl

/-- The product after reset is 0 (R183). -/
theorem reset_product (d : Dim) :
    product d (State.reset.matrix d) (State.reset.vector d) = fun _ => 0 := by
  rw [product_eq_mulVec, reset_matrix, Matrix.zero_mulVec]
  rfl

/-! ## Results of zeros after reset (R27, R183) -/

/-- The residue of 0 (R7). -/
theorem red_zero (m : Nat) : red 0 m = 0 := by
  simp [red]

/-- A scalar result of 0 is what R0 holds after reset (R27, R37). -/
theorem writeScalar_zero_reset : writeScalar 0 State.reset = State.reset := rfl

/-- A matrix result of zeros is what R holds after reset (R27, R37). -/
theorem writeMatrix_zero_reset (d : Dim) : writeMatrix d (fun _ _ => 0) State.reset = State.reset := by
  cases d <;> rfl

/-- A vector result of zeros is what R holds after reset (R27, R37). -/
theorem writeVector_zero_reset (d : Dim) : writeVector d (fun _ => 0) State.reset = State.reset := by
  cases d <;> rfl

/-- A success of the reset state as it is (R158). -/
theorem complete_reset : complete State.reset = { State.reset with status := 0x00000010 } := by
  rw [complete, okStatus_eq]

/-! ## The commands after reset (R183) -/

section Sized

variable {n : BitVec 4} {d : Dim} (hn : dimOfField n = some d)
include hn

/-- DET n after reset: the determinant 0 is an ordinary result (R90, R183). -/
theorem exec_det_reset :
    exec (.det n) State.reset = .next { State.reset with status := 0x00000010 } := by
  rw [exec_det_some reset_modulus_ne_zero hn, reset_determinant, red_zero, writeScalar_zero_reset,
    complete_reset]

/-- MATINV n after reset: the reduced determinant is 0 (R122, R183). -/
theorem exec_matinv_reset :
    exec (.matinv n) State.reset = .next { State.reset with status := 0x00000002 } := by
  refine exec_matinv_singular reset_modulus_ne_zero hn ?_
  rw [State.reducedDet, reset_determinant, red_zero]

/-- MATVEC n after reset: the product of zeros (R130, R183). -/
theorem exec_matvec_reset :
    exec (.matvec n) State.reset = .next { State.reset with status := 0x00000010 } := by
  rw [exec_matvec_some reset_modulus_ne_zero hn, reset_product]
  simp only [red_zero]
  rw [writeVector_zero_reset, complete_reset]

/-- ADJ n after reset, for n above 1: every entry is 0 (R111, R183). -/
theorem exec_adj_reset (hd : d ≠ .one) :
    exec (.adj n) State.reset = .next { State.reset with status := 0x00000010 } := by
  rw [exec_adj_some reset_modulus_ne_zero hn, reset_adjugate hd]
  simp only [red_zero]
  rw [writeMatrix_zero_reset, complete_reset]

end Sized

/-- MODINV after reset: 0 has no inverse (R183). -/
theorem exec_modinv_reset :
    exec .modinv State.reset = .next { State.reset with status := 0x00000003 } :=
  exec_modinv_none reset_modulus_ne_zero (minv_zero State.reset.modulus)

/-- ADJ 1 after reset: its entry is 1 whatever A holds, and the modulus is not 1 (R112, R183). -/
theorem exec_adj_one_reset : exec (.adj 1) State.reset =
    .next { State.reset with r := State.reset.r.set 0 1, status := 0x00000010 } :=
  adjugateOfSizeOne State.reset (by decide)

/-- Settles O47: the sized commands work on zeros, whose determinant, adjugate above size 1 and product
are 0. -/
theorem commandsAfterReset : Obligations.CommandsAfterReset := by
  refine ⟨fun n hn => ?sized, exec_adj_one_reset, exec_adj_reset (d := .two) rfl nofun,
    exec_adj_reset (d := .three) rfl nofun, exec_modinv_reset⟩
  case sized =>
    obtain ⟨d, hd⟩ : ∃ d, dimOfField n = some d := by
      obtain h | h | h := hn
      · exact ⟨.one, (dimOfField_eq_some n .one).2 h⟩
      · exact ⟨.two, (dimOfField_eq_some n .two).2 h⟩
      · exact ⟨.three, (dimOfField_eq_some n .three).2 h⟩
    exact ⟨exec_det_reset hd, exec_matinv_reset hd, exec_matvec_reset hd⟩

end Sys2Proof.Machine
end
